-- ==== Sys2Proof/Word.lean ====
section
/-! DEFINITION. The fixed widths of the block (00_scope.md R9). -/

namespace Sys2Proof

/-- The data bus is 4 bits wide (R9). -/
abbrev Nibble := BitVec 4

/-- A command or data byte, and a column, row or address operand, is 8 bits (R9). -/
abbrev Byte := BitVec 8

/-- A host register is 32 bits wide (R9). -/
abbrev Word := BitVec 32

end Sys2Proof
end

