-- ==== Sys2Proof/Config.lean ====
section
/-! DEFINITION. What an implementation fixes (00_scope.md R6, R7, R8) and the free values.

The parameters of R6 to R8 are arguments of the model with defaults: a record `Config.Params`, which State carries
unchanged, so that a statement over all states holds for all parameters (log entry 1). -/

namespace Sys2Proof.Config

/-- The edge of `E` on which the reference peer latches: `LATCH_EDGE` (R8, R182). -/
inductive Edge where
  | falling
  | rising
deriving DecidableEq, Repr, Inhabited

/-- `PEER_POWER_ON` (R8, R181). -/
inductive PowerOn where
  /-- The HD44780 internal-reset state. -/
  | reset8
  /-- Every field but `lastE`, `fault` and `busyUntil` is any value. -/
  | any
deriving DecidableEq, Repr, Inhabited

/-- The parameters: the eight minimum durations in µs (R6), `COLS` (R7), the string sentinel and the three parameters
of the reference peer (R8). -/
structure Params where
  tPowerOn    : Nat
  tBoot       : Nat
  tRs         : Nat
  tPre        : Nat
  tEl         : Nat
  tEh         : Nat
  tExec       : Nat
  tClr        : Nat
  cols        : Nat
  sentinel    : Byte
  latchEdge   : Edge
  peerPowerOn : PowerOn
  peerTiming  : Bool
deriving DecidableEq, Repr, Inhabited

/-- The defaults of R6, R7 and R8. -/
def defaults : Params where
  tPowerOn    := 30000
  tBoot       := 2000
  tRs         := 5
  tPre        := 10
  tEl         := 100
  tEh         := 100
  tExec       := 1000
  tClr        := 1000
  cols        := 16
  sentinel    := 0x00
  latchEdge   := .falling
  peerPowerOn := .reset8
  peerTiming  := false

/-- `ROWS` is fixed at 2 (R7). -/
def rows : Nat := 2

/-- The free values: component `k` of draw `n`. It has no body, so no proof can see what it is (I-1, I-2, I-21, I-22,
I-28). DESIGN CHOICE (log entry 2): one constant serves every draw; the counter `draws` of State gives each draw its
own number and the component numbers stand in Machine/Ops.lean. -/
opaque freeValue : Nat → Nat → Nat

/-- `LCDIF_BASE`, where the register window sits in the host's address space: OPEN (20_memory.md R50, I-5). -/
opaque lcdifBase : Nat

/-- `F_CLK`, the block's clock frequency in Hz: OPEN (R8, I-4). -/
opaque fClk : Nat

/-- The host's address of the register at `offset` of the window (R50). -/
def registerAddress (offset : Nat) : Nat := lcdifBase + offset

/-- The least number of clock cycles a `Wait(d)` counts: the ceiling of `d × F_CLK / 10^6` (92_eei_decisions.md D27). -/
def waitCycles (d : Nat) : Nat := (d * fClk + 999999) / 1000000

end Sys2Proof.Config
end

