-- ==== Sys2Proof/Syntax.lean ====
section
/-! DEFINITION. The instructions: one constructor per row of opcode_table.json, seven requests (30_encoding.md R71)
and ten LCD transfers (R81). A field the table marks `x` (ignored by the peer) is kept, so that no bit is dropped. -/

namespace Sys2Proof

inductive Instr where
  /-- `INIT` (R120). -/
  | init
  /-- `WRITE_CMD b` (R140). -/
  | writeCmd (byte : Byte)
  /-- `WRITE_CHAR b` (R141). -/
  | writeChar (byte : Byte)
  /-- `CLEAR` (R160). -/
  | clear
  /-- `HOME` (R161). -/
  | home
  /-- `SET_CURSOR c, r` (R162). -/
  | setCursor (column row : Byte)
  /-- `GOTO_ADDR a` (R163). -/
  | gotoAddr (address : Byte)
  /-- Transfer `0 00000000`: no instruction of the peer (R188). -/
  | lcdNone
  /-- Transfer `0 00000001`: clear display (R187). -/
  | lcdClearDisplay
  /-- Transfer `0 0000001x`: return home (R189). -/
  | lcdReturnHome (x : Bool)
  /-- Transfer `0 000001IS`: entry mode set (R190). -/
  | lcdEntryModeSet (i s : Bool)
  /-- Transfer `0 00001DCB`: display control (R191). -/
  | lcdDisplayControl (d c b : Bool)
  /-- Transfer `0 0001SRxx`: cursor or display shift (R188). -/
  | lcdShift (s r : Bool) (x : BitVec 2)
  /-- Transfer `0 001LNFxx`: function set (R192). -/
  | lcdFunctionSet (l n f : Bool) (x : BitVec 2)
  /-- Transfer `0 01aaaaaa`: set CGRAM address (R188). -/
  | lcdSetCgram (a : BitVec 6)
  /-- Transfer `0 1aaaaaaa`: set DDRAM address (R193). -/
  | lcdSetDdram (a : BitVec 7)
  /-- Transfer `1 dddddddd`: write data (R195). -/
  | lcdWriteData (d : Byte)
deriving DecidableEq, Repr

end Sys2Proof
end

