-- ==== Sys2Proof/Decode.lean ====
section
/-! DEFINITION. Encodings (30_encoding.md): the request word (R70 to R75), the 9-bit LCD transfer (R81), the opcode table
as rows of match and mask, a decoder total on any word and any bytes that rejects by name, and the encoder. -/

namespace Sys2Proof

/-- Why a word or a list of bytes is no instruction: R74 (a), (b), (c), and two reasons of the byte layout. -/
inductive DecodeError where
  /-- R74 (a): `RSVD != 0`. -/
  | reservedField
  /-- R74 (b): `OP` in 0x0, 0x8..0xF. -/
  | reservedOp
  /-- R74 (c): a must-be-zero `ARG0` or `ARG1` that is not zero. -/
  | operandNotZero
  /-- Fewer bytes than the instruction has. -/
  | truncated
  /-- A bit above the nine of an LCD transfer is set. -/
  | notATransfer
deriving DecidableEq, Repr

/-- `RSVD`, bits 31:20 (R70). -/
def fieldRsvd (w : Word) : BitVec 12 := w.extractLsb' 20 12

/-- `OP`, bits 19:16 (R70). -/
def fieldOp (w : Word) : BitVec 4 := w.extractLsb' 16 4

/-- `ARG1`, bits 15:8 (R70). -/
def fieldArg1 (w : Word) : Byte := w.extractLsb' 8 8

/-- `ARG0`, bits 7:0 (R70). -/
def fieldArg0 (w : Word) : Byte := w.extractLsb' 0 8

/-- `some i` if the must-be-zero condition holds, else R74 (c). -/
def mustBeZero (ok : Bool) (i : Instr) : Except DecodeError Instr :=
  if ok then .ok i else .error .operandNotZero

/-- `Decode` (R73): total on every word. A rejection names the case of R74. -/
def decodeReq (w : Word) : Except DecodeError Instr :=
  if fieldRsvd w ≠ 0 then .error .reservedField
  else
    match (fieldOp w).toNat with
    | 1 => mustBeZero (fieldArg1 w == 0 && fieldArg0 w == 0) .init
    | 2 => mustBeZero (fieldArg1 w == 0) (.writeCmd (fieldArg0 w))
    | 3 => mustBeZero (fieldArg1 w == 0) (.writeChar (fieldArg0 w))
    | 4 => mustBeZero (fieldArg1 w == 0 && fieldArg0 w == 0) .clear
    | 5 => mustBeZero (fieldArg1 w == 0 && fieldArg0 w == 0) .home
    | 6 => .ok (.setCursor (fieldArg0 w) (fieldArg1 w))
    | 7 => mustBeZero (fieldArg1 w == 0) (.gotoAddr (fieldArg0 w))
    | _ => .error .reservedOp

/-- The peer's dispatch on `RS` and the byte by its leading 1 bit (R81, R186): every transfer is an instruction. -/
def decodeTransfer (rs : Bool) (b : Byte) : Instr :=
  if rs then .lcdWriteData b
  else if b.getLsbD 7 then .lcdSetDdram (b.extractLsb' 0 7)
  else if b.getLsbD 6 then .lcdSetCgram (b.extractLsb' 0 6)
  else if b.getLsbD 5 then .lcdFunctionSet (b.getLsbD 4) (b.getLsbD 3) (b.getLsbD 2) (b.extractLsb' 0 2)
  else if b.getLsbD 4 then .lcdShift (b.getLsbD 3) (b.getLsbD 2) (b.extractLsb' 0 2)
  else if b.getLsbD 3 then .lcdDisplayControl (b.getLsbD 2) (b.getLsbD 1) (b.getLsbD 0)
  else if b.getLsbD 2 then .lcdEntryModeSet (b.getLsbD 1) (b.getLsbD 0)
  else if b.getLsbD 1 then .lcdReturnHome (b.getLsbD 0)
  else if b.getLsbD 0 then .lcdClearDisplay
  else .lcdNone

/-- An instruction's bits: a 32-bit request word (R70) or a 9-bit transfer, `RS` above the byte (R81). -/
inductive Encoded where
  | req (w : Word)
  | lcd (t : BitVec 9)
deriving DecidableEq, Repr

/-- The decoder on either kind of encoding. -/
def decode : Encoded → Except DecodeError Instr
  | .req w => decodeReq w
  | .lcd t => .ok (decodeTransfer (t.getLsbD 8) (t.extractLsb' 0 8))

/-- A request word from its fields (R70). -/
def packReq (op : BitVec 4) (arg1 arg0 : Byte) : Encoded :=
  .req ((0 : BitVec 12) ++ op ++ arg1 ++ arg0)

/-- One bit of an encoding. -/
def bit (v : Bool) : BitVec 1 := BitVec.ofBool v

/-- `Encode` (R73, R76 for the requests; R81 for the transfers). -/
def encode : Instr → Encoded
  | .init => packReq 0x1 0 0
  | .writeCmd b => packReq 0x2 0 b
  | .writeChar b => packReq 0x3 0 b
  | .clear => packReq 0x4 0 0
  | .home => packReq 0x5 0 0
  | .setCursor c r => packReq 0x6 r c
  | .gotoAddr a => packReq 0x7 0 a
  | .lcdNone => .lcd 0b000000000
  | .lcdClearDisplay => .lcd 0b000000001
  | .lcdReturnHome x => .lcd (0b00000001#8 ++ bit x)
  | .lcdEntryModeSet i s => .lcd (0b0000001#7 ++ bit i ++ bit s)
  | .lcdDisplayControl d c b => .lcd (0b000001#6 ++ bit d ++ bit c ++ bit b)
  | .lcdShift s r x => .lcd (0b00001#5 ++ bit s ++ bit r ++ x)
  | .lcdFunctionSet l n f x => .lcd (0b0001#4 ++ bit l ++ bit n ++ bit f ++ x)
  | .lcdSetCgram a => .lcd (0b001#3 ++ a)
  | .lcdSetDdram a => .lcd (0b01#2 ++ a)
  | .lcdWriteData d => .lcd (0b1#1 ++ d)

/-- The byte of an LCD transfer's encoding (R81); of a request, its `ARG0`. -/
def encodedByte : Encoded → Byte
  | .req w => fieldArg0 w
  | .lcd t => t.extractLsb' 0 8

/-- Little-endian word of four bytes (20_memory.md R52). -/
def wordOfBytes (b0 b1 b2 b3 : Byte) : Word := b3 ++ b2 ++ b1 ++ b0

/-- The decoder on the bytes of a byte-addressed bus, the first at the lowest address (R52, R75): the request and the
bytes after it. -/
def decodeReqBytes : List Byte → Except DecodeError (Instr × List Byte)
  | b0 :: b1 :: b2 :: b3 :: rest =>
    match decodeReq (wordOfBytes b0 b1 b2 b3) with
    | .ok i => .ok (i, rest)
    | .error e => .error e
  | _ => .error .truncated

/-- The decoder on a transfer laid out in two bytes: the byte, then `RS` in bit 0 of the second. -/
def decodeLcdBytes : List Byte → Except DecodeError (Instr × List Byte)
  | b :: hi :: rest =>
    if hi.extractLsb' 1 7 = 0 then .ok (decodeTransfer (hi.getLsbD 0) b, rest) else .error .notATransfer
  | _ => .error .truncated

/-- The `n` lowest bytes of a number, the least significant first. -/
def leBytes : Nat → Nat → List Byte
  | 0, _ => []
  | n + 1, w => BitVec.ofNat 8 w :: leBytes n (w / 256)

/-- The instruction a decoder's answer on a list of bytes gives, if it consumed them all. -/
def wholeInstr : Except DecodeError (Instr × List Byte) → Option Instr
  | .ok (i, []) => some i
  | _ => none

/-- What the decoder reads from an instruction whose bits are `w`, numbered as opcode_table.json numbers them: an LCD
transfer where the row has at most 16 bits (nine, in whole bytes), else a request word. -/
def decodeTableWord (nbits w : Nat) : Option Instr :=
  if nbits ≤ 16 then
    if w < 2 ^ 16 then wholeInstr (decodeLcdBytes (leBytes 2 w)) else none
  else
    if w < 2 ^ 32 then wholeInstr (decodeReqBytes (leBytes 4 w)) else none

/-- A row of opcode_table.json: its width, match and mask. -/
structure TableRow where
  width : Nat
  pat   : Nat
  mask  : Nat
deriving DecidableEq, Repr

/-- The row of opcode_table.json an instruction belongs to. -/
def tableRow : Instr → TableRow
  | .init => ⟨32, 0x00010000, 0xFFFFFFFF⟩
  | .writeCmd _ => ⟨32, 0x00020000, 0xFFFFFF00⟩
  | .writeChar _ => ⟨32, 0x00030000, 0xFFFFFF00⟩
  | .clear => ⟨32, 0x00040000, 0xFFFFFFFF⟩
  | .home => ⟨32, 0x00050000, 0xFFFFFFFF⟩
  | .setCursor _ _ => ⟨32, 0x00060000, 0xFFFF0000⟩
  | .gotoAddr _ => ⟨32, 0x00070000, 0xFFFFFF00⟩
  | .lcdNone => ⟨9, 0x000, 0x1FF⟩
  | .lcdClearDisplay => ⟨9, 0x001, 0x1FF⟩
  | .lcdReturnHome _ => ⟨9, 0x002, 0x1FE⟩
  | .lcdEntryModeSet _ _ => ⟨9, 0x004, 0x1FC⟩
  | .lcdDisplayControl _ _ _ => ⟨9, 0x008, 0x1F8⟩
  | .lcdShift _ _ _ => ⟨9, 0x010, 0x1F0⟩
  | .lcdFunctionSet _ _ _ _ => ⟨9, 0x020, 0x1E0⟩
  | .lcdSetCgram _ => ⟨9, 0x040, 0x1C0⟩
  | .lcdSetDdram _ => ⟨9, 0x080, 0x180⟩
  | .lcdWriteData _ => ⟨9, 0x100, 0x100⟩

/-- The width in bits and the bits of an encoding, as a number. -/
def Encoded.bits : Encoded → Nat × Nat
  | .req w => (32, w.toNat)
  | .lcd t => (9, t.toNat)

/-- Whether an encoding fits a row's match and mask. -/
def TableRow.fits (row : TableRow) (e : Encoded) : Bool :=
  row.width == e.bits.1 && (e.bits.2 &&& row.mask) == row.pat

end Sys2Proof
end

