-- ==== Sys2Proof/WellFormed.lean ====
section
/-! DEFINITION. What is checked of a term before it means anything. The operands of an instruction have the widths of
their fields (30_encoding.md R72), so a term of type Instr can only be well-formed; the checks that can fail are those
on the numbers an assembler line holds (R76), on the parameters (R194), and on a host access (R51). -/

namespace Sys2Proof

/-- Every one of the 256 values is legal in a used field (R72), and the types admit no other: a term of Instr is
well-formed when it is the instruction its own row of the opcode table describes. -/
def Instr.wellFormed (i : Instr) : Bool := (tableRow i).fits (encode i)

/-- An assembler operand must fit in 8 bits; one that does not is refused, not truncated (R76). -/
def operandFits (n : Nat) : Bool := n < 256

/-- The number of a `.word` line is any 32-bit word (R76). -/
def wordFits (n : Nat) : Bool := n < 2 ^ 32

/-- `COLS` must not exceed 40 (R194). -/
def Config.Params.wellFormed (p : Config.Params) : Bool := p.cols ≤ 40

/-- A host access is one 32-bit access at offset 0x0 or 0x4 (R51). -/
def accessFits (offset bytes : Nat) : Bool := bytes == 4 && (offset == 0 || offset == 4)

end Sys2Proof
end

