-- ==== Sys2Proof/Machine/State.lean ====
section
/-! DEFINITION. The state of the machine: the block (10_state.md R20 to R34), the reference peer (45_reference_peer.md
R180) and what the model adds to let one deterministic step stand for host, block and platform. -/

namespace Sys2Proof.Machine

/-- `MODE` (R24). -/
inductive Mode where
  /-- No INIT request accepted since reset. -/
  | uninit
  /-- An INIT request is presenting its bootstrap patterns. -/
  | boot8
  /-- Transfers are 4-bit. -/
  | ready
deriving DecidableEq, Repr, Inhabited

/-- The line actions a request expands to (30_encoding.md R80). -/
inductive Action where
  | setData (n : Nibble)
  | setRs (v : Bool)
  | setE (v : Bool)
  /-- At least `d` µs pass. -/
  | wait (d : Nat)
  | setMode (m : Mode)
deriving DecidableEq, Repr

/-- `PLAN`: the remaining actions, the next one first (R26). -/
abbrev Plan := List Action

/-- What the trace records of a line action (R30, R80). -/
inductive BusEvent where
  | data (n : Nibble)
  | rs (v : Bool)
  | e (v : Bool)
deriving DecidableEq, Repr

/-- The contract violations of 60_exceptions.md R221. -/
inductive Violation where
  | reservedEncoding
  | reqBeforeInit
  | repeatedInit
deriving DecidableEq, Repr

/-- The bus width the peer expects (R180). -/
inductive IfMode where
  | eight
  | four
deriving DecidableEq, Repr, Inhabited

/-- Whether the next 4-bit latch is a high or a low nibble (R180). -/
inductive Phase where
  | hi
  | lo
deriving DecidableEq, Repr, Inhabited

/-- The peer's sticky fault (R180). It is state of the peer, no stop of the machine. -/
inductive PeerFault where
  /-- `RS` differs between the two nibbles of a byte (R185). -/
  | rsChanged
  /-- A byte the reference peer does not model (R188, R195). -/
  | unmodelled (b : Byte)
  /-- An address that is not valid for `lines2` (R193, R195). -/
  | badAddress
  /-- A latch too early, with `PEER_TIMING = on` (R197). -/
  | overrun
deriving DecidableEq, Repr, Inhabited

/-- DDRAM as canonical cells: addresses strictly rising, no cell equal to what an unlisted address reads as. -/
abbrev Memory := List Host.Cell

/-- What an unlisted DDRAM address reads as: the blank 0x20 of R181 and R187. -/
def Memory.unlisted : Byte := 0x20

/-- The DDRAM address field is 7 bits wide (20_memory.md R57): 128 cells. -/
def Memory.size : Nat := 128

/-- The reference peer (R180). `fsSeen` is the model's own: a function-set byte was latched in 8-bit mode since the
LCD's power-on, which R197's 4100 µs rule needs (DEDUCED, log entry 5). -/
structure Peer where
  ifmode    : IfMode
  phase     : Phase
  hiNib     : Nibble
  hiRS      : Bool
  lastE     : Bool
  ddram     : Memory
  ac        : BitVec 7
  id        : Bool
  sh        : Bool
  dispOn    : Bool
  cursorOn  : Bool
  blinkOn   : Bool
  lines2    : Bool
  font10    : Bool
  fault     : Option PeerFault
  busyUntil : Nat
  fsSeen    : Bool
deriving DecidableEq, Repr, Inhabited

/-- `Reset8`, the HD44780 internal-reset state (R181). `hiNib` and `hiRS`, which R181 does not give and which mean
something only when `phase = LO`, are 0: DESIGN CHOICE (log entry 4). -/
def Peer.reset8 : Peer where
  ifmode    := .eight
  phase     := .hi
  hiNib     := 0
  hiRS      := false
  lastE     := true
  ddram     := []
  ac        := 0
  id        := true
  sh        := false
  dispOn    := false
  cursorOn  := false
  blinkOn   := false
  lines2    := false
  font10    := false
  fault     := none
  busyUntil := 0
  fsSeen    := false

/-- A host access to the register window: its offset, its width in bytes, and the word written, or none for a read
(20_memory.md R50, R51). -/
structure Access where
  offset : Nat
  bytes  : Nat
  write  : Option Word
deriving DecidableEq, Repr

/-- A step of the host (R112). -/
inductive HostStep where
  | access (a : Access)
  | idle
deriving DecidableEq, Repr

/-- One entry of the schedule: who moves. DESIGN CHOICE (log entry 7): the interleaving of R112 and the events of R240
are plain data. -/
inductive Turn where
  /-- The block performs the head action of its plan, if it has one. -/
  | block
  | host (h : HostStep)
  /-- The platform asserts `RESET` (R240). -/
  | reset
  /-- Power is cycled: block and LCD power on together (R181, R233, R240). -/
  | powerCycle
deriving DecidableEq, Repr

/-- The whole state. `data` to `trace` is the block (R21 to R30), `peer` the reference peer (R180). The rest is the
model's own: `initRun` (PLAN is an INIT's and not another request's, which R122's states tell apart, log entry 17), `epoch` (the LCD's powered time when the block was last reset, log entry 6), `schedule` (log entry 7),
`rdata` (the host's latest register read, log entry 8), `draws` (the counter of free values, log entry 2), `cfg` (the
parameters of R6 to R8, log entry 1). -/
structure State where
  data     : Nibble
  rs       : Bool
  e        : Bool
  mode     : Mode
  busy     : Bool
  plan     : Plan
  cv       : Bool
  cause    : BitVec 3
  now      : Nat
  trace    : List (Nat × BusEvent)
  initRun  : Bool
  peer     : Peer
  epoch    : Nat
  schedule : List Turn
  rdata    : Option Word
  draws    : Nat
  cfg      : Config.Params
deriving DecidableEq, Repr

/-- The machine never stops with a fault: the block raises no exception and has no trap (60_exceptions.md R220, R226),
and the peer's fault is a field of the peer (R180). So the type has no constructor and no one raises one. -/
inductive Fault where
deriving DecidableEq, Repr

/-- Why a step has no meaning. -/
inductive Refusal where
  /-- Raised by an arm of `exec` whose instruction has no meaning yet: safe. No arm is left that does. -/
  | notModelled (mnemonic : String)
  /-- Raised by `step` on a host access that is not one 32-bit access at offset 0x0 or 0x4, which the model refuses
  with no step and no state change (R51, I-9): safe, it errs toward unprovable. -/
  | hostAccess (offset bytes : Nat)
deriving DecidableEq, Repr

/-- The machine right after power-on with the default parameters: the table of R34, and the peer in `Reset8` (R181).
Draw number 0 is kept for a peer that powers on with `PEER_POWER_ON = Any`, so the counter starts at 1. -/
def State.reset : State where
  data     := 0x0
  rs       := false
  e        := true
  mode     := .uninit
  busy     := false
  plan     := []
  cv       := false
  cause    := 0
  now      := 0
  trace    := []
  initRun  := false
  peer     := Peer.reset8
  epoch    := 0
  schedule := []
  rdata    := none
  draws    := 1
  cfg      := Config.defaults

end Sys2Proof.Machine
end

