-- ==== Sys2Proof/Machine/Flags.lean ====
section
/-! DEFINITION. The status bits: MODE's code (10_state.md R24), the violation codes (60_exceptions.md R221), and the
STATUS word (10_state.md R29). The block has no condition codes (R32). -/

namespace Sys2Proof.Machine

/-- The encoding of `STATUS.MODE` (R24). -/
def Mode.code : Mode → BitVec 2
  | .uninit => 0b00
  | .boot8 => 0b01
  | .ready => 0b10

/-- The code recorded in `STATUS.CAUSE` (R221). -/
def Violation.code : Violation → BitVec 3
  | .reservedEncoding => 1
  | .reqBeforeInit => 2
  | .repeatedInit => 3

/-- `STATUS` (R29): BUSY in bit 0, MODE in 2:1, CV in 3, CAUSE in 6:4, 31:7 read 0. -/
def State.status (s : State) : Word :=
  (0 : BitVec 25) ++ s.cause ++ BitVec.ofBool s.cv ++ s.mode.code ++ BitVec.ofBool s.busy

/-- Which violation, if any, the acceptance of a request records (40_bus_primitives.md R110): INIT when MODE is not
UNINIT, any other request when it is. At most one applies (60_exceptions.md R225). -/
def acceptViolation (isInit : Bool) (m : Mode) : Option Violation :=
  match isInit, m with
  | true, .uninit => none
  | true, _ => some .repeatedInit
  | false, .uninit => some .reqBeforeInit
  | false, _ => none

end Sys2Proof.Machine
end

