-- ==== Sys2Proof/Machine/Operands.lean ====
section
/-! DEFINITION. Operand forms and address arithmetic: the nibble split (30_encoding.md R78), set-DDRAM assembly (R83),
the constants the block sends (R82), cell addresses (20_memory.md R57), the peer's valid addresses and address step
(45_reference_peer.md R196). -/

namespace Sys2Proof.Machine

/-- `b[7:4]`, the nibble sent first (R78). -/
def hiNibble (b : Byte) : Nibble := b.extractLsb' 4 4

/-- `b[3:0]`, the nibble sent second (R78). -/
def loNibble (b : Byte) : Nibble := b.extractLsb' 0 4

/-- `BOOT_8BIT` (R82). -/
def boot8Bit : Nibble := 0x3
/-- `BOOT_4BIT` (R82). -/
def boot4Bit : Nibble := 0x2
/-- `CMD_FUNCTION_SET` (R82). -/
def cmdFunctionSet : Byte := 0x28
/-- `CMD_ENTRY_MODE` (R82). -/
def cmdEntryMode : Byte := 0x06
/-- `CMD_DISPLAY_CTRL` (R82). -/
def cmdDisplayCtrl : Byte := 0x0C
/-- `CMD_CLEAR` (R82). -/
def cmdClear : Byte := 0x01
/-- `CMD_HOME` (R82). -/
def cmdHome : Byte := 0x02
/-- `DDRAM_ROW0` (R82). -/
def ddramRow0 : Byte := 0x80
/-- `DDRAM_ROW1` (R82). -/
def ddramRow1 : Byte := 0xC0

/-- `ddram_cmd(base, v)`: 8-bit wrap-around addition (R83). -/
def ddramCmd (base v : Byte) : Byte := base + v

/-- The DDRAM address of row 0's or row 1's first cell (R57, R194). -/
def rowBase (row : Nat) : Nat := if row = 0 then 0x00 else 0x40

/-- Whether an address is valid for `lines2` (R196). -/
def validAddress (lines2 : Bool) (a : BitVec 7) : Bool :=
  if lines2 then a.toNat ≤ 0x27 || (0x40 ≤ a.toNat && a.toNat ≤ 0x67) else a.toNat ≤ 0x4F

/-- `Step(a, id)`, the address counter's step with its wraps (R196). -/
def stepAddress (lines2 inc : Bool) (a : BitVec 7) : BitVec 7 :=
  match lines2, inc with
  | true, true => if a = 0x27 then 0x40 else if a = 0x67 then 0x00 else a + 1
  | true, false => if a = 0x40 then 0x27 else if a = 0x00 then 0x67 else a - 1
  | false, true => if a = 0x4F then 0x00 else a + 1
  | false, false => if a = 0x00 then 0x4F else a - 1

end Sys2Proof.Machine
end

