-- ==== Sys2Proof/Machine/Ops.lean ====
section
/-! DEFINITION. The named operations: DDRAM, the one writer of each field, the free values, the line actions
(40_bus_primitives.md R101 to R105), recording a contract violation (10_state.md R27), accepting a request (R110), the
peer's sticky fault (45_reference_peer.md R180), power-on and reset (70_reset_and_hazards.md R240). The block takes no
exception and has no return from one (60_exceptions.md R226, R227): `State.violate` is the one shared operation a
misuse goes through. -/

namespace Sys2Proof.Machine

/-! ### DDRAM -/

/-- The byte at an address. -/
def Memory.read : Memory → Nat → Byte
  | [], _ => Memory.unlisted
  | (b, w) :: m, a => if a = b then w else Memory.read m a

/-- Write one byte, keeping the cells canonical. -/
def Memory.write : Memory → Nat → Byte → Memory
  | [], a, v => if v = Memory.unlisted then [] else [(a, v)]
  | (b, w) :: m, a, v =>
    if a < b then (if v = Memory.unlisted then (b, w) :: m else (a, v) :: (b, w) :: m)
    else if a = b then (if v = Memory.unlisted then m else (a, v) :: m)
    else (b, w) :: Memory.write m a v

/-- The cells of a function on the `n` addresses from `a`. -/
def Memory.ofFnFrom (f : Nat → Byte) : Nat → Nat → Memory
  | 0, _ => []
  | n + 1, a =>
    if f a = Memory.unlisted then Memory.ofFnFrom f n (a + 1) else (a, f a) :: Memory.ofFnFrom f n (a + 1)

/-- The DDRAM whose byte at each of the 128 addresses `f` gives. -/
def Memory.ofFn (f : Nat → Byte) : Memory := Memory.ofFnFrom f Memory.size 0

/-- Canonical from address `lo` up. -/
def Memory.wfFrom : Nat → Memory → Bool
  | _, [] => true
  | lo, (a, v) :: m => lo ≤ a && a < Memory.size && v != Memory.unlisted && Memory.wfFrom (a + 1) m

/-- The canonical form: addresses of the 7-bit space strictly rising, no cell that holds what an unlisted one reads. -/
def Memory.wf (m : Memory) : Bool := Memory.wfFrom 0 m

/-! ### One writer for each field of State -/

def State.setData (s : State) (n : Nibble) : State := { s with data := n }
def State.setRs (s : State) (v : Bool) : State := { s with rs := v }
def State.setE (s : State) (v : Bool) : State := { s with e := v }
def State.setMode (s : State) (m : Mode) : State := { s with mode := m }
def State.setBusy (s : State) (v : Bool) : State := { s with busy := v }
def State.setPlan (s : State) (p : Plan) : State := { s with plan := p }
def State.setCv (s : State) (v : Bool) : State := { s with cv := v }
def State.setCause (s : State) (c : BitVec 3) : State := { s with cause := c }
def State.setNow (s : State) (t : Nat) : State := { s with now := t }
def State.setTrace (s : State) (l : List (Nat × BusEvent)) : State := { s with trace := l }
def State.setInitRun (s : State) (v : Bool) : State := { s with initRun := v }
def State.setPeer (s : State) (p : Peer) : State := { s with peer := p }
def State.setEpoch (s : State) (t : Nat) : State := { s with epoch := t }
def State.setSchedule (s : State) (l : List Turn) : State := { s with schedule := l }
def State.setRdata (s : State) (w : Option Word) : State := { s with rdata := w }
def State.setDraws (s : State) (n : Nat) : State := { s with draws := n }

/-! ### Free values

Component numbers of a draw: 0 a duration, 1 the undriven low nibble, 2 and 3 the reset race, 10 to 25 the fields of an
unconstrained peer, 1000 + a its DDRAM cell a. -/

/-- A duration of any length (I-1, I-2). -/
def freeDelay (n : Nat) : Nat := Config.freeValue n 0

/-- One bit of any value. -/
def freeBit (n k : Nat) : Bool := Config.freeValue n k % 2 == 1

/-- DB3..DB0 as an 8-bit latch samples them: any value (R183, I-22). -/
def freeNibble (n : Nat) : Nibble := BitVec.ofNat 4 (Config.freeValue n 1)

/-- A peer every field of which is any value (I-21, I-28). -/
def Peer.any (n : Nat) : Peer where
  ifmode    := if freeBit n 10 then .four else .eight
  phase     := if freeBit n 11 then .lo else .hi
  hiNib     := BitVec.ofNat 4 (Config.freeValue n 12)
  hiRS      := freeBit n 13
  lastE     := freeBit n 14
  ddram     := Memory.ofFn fun a => BitVec.ofNat 8 (Config.freeValue n (1000 + a))
  ac        := BitVec.ofNat 7 (Config.freeValue n 15)
  id        := freeBit n 16
  sh        := freeBit n 17
  dispOn    := freeBit n 18
  cursorOn  := freeBit n 19
  blinkOn   := freeBit n 20
  lines2    := freeBit n 21
  font10    := freeBit n 22
  fault     := none
  busyUntil := Config.freeValue n 24
  fsSeen    := freeBit n 25

/-- Let `d` µs and any further time pass; the draw is spent (R104, R111, R112). -/
def State.passTime (s : State) (d : Nat) : State :=
  (s.setNow (s.now + (d + freeDelay s.draws))).setDraws (s.draws + 1)

/-- While the peer's fault is set, every other field of the peer is any value, in every later step (R180, I-28). The
fault itself stays: it is sticky (DEDUCED, log entry 9). Every step of the machine ends here. -/
def State.drift (s : State) : State :=
  match s.peer.fault with
  | none => s
  | some f => (s.setPeer { Peer.any s.draws with fault := some f }).setDraws (s.draws + 1)

/-- The answer of a step that ends in `s`. -/
def done (s : State) : Host.Outcome State Fault Refusal := .next s.drift

/-! ### The block -/

/-- `violate(c)` (R27): the first cause since reset is kept, CV is sticky. -/
def State.violate (s : State) (c : Violation) : State :=
  (if s.cv then s else s.setCause c.code).setCv true

/-- `violate` where there is a violation to record. -/
def State.violateIf (s : State) : Option Violation → State
  | none => s
  | some c => s.violate c

/-- Append a line event at the current time (R30). -/
def State.record (s : State) (ev : BusEvent) : State := s.setTrace (s.trace ++ [(s.now, ev)])

/-- `SetData(n)` (R101): all four lines in one action; recorded even if the level does not change. -/
def State.driveData (s : State) (n : Nibble) : State := (s.setData n).record (.data n)

/-- `SetRS(v)` (R102). -/
def State.driveRs (s : State) (v : Bool) : State := (s.setRs v).record (.rs v)

/-- `SetE(v)` (R103), the block's side: what the peer makes of the edge is Machine/Peer.lean. -/
def State.driveE (s : State) (v : Bool) : State := (s.setE v).record (.e v)

/-- Load a plan: `PLAN <- p; BUSY <- (PLAN != [])` (R110); `isInit` tells whether it is an INIT's (R122). -/
def State.loadPlan (s : State) (isInit : Bool) (p : Plan) : State :=
  ((s.setPlan p).setBusy (!p.isEmpty)).setInitRun isInit

/-- `Accept` of a request (R110): record the order violation, if any, then load the plan, which is the same with and
without the violation. Only enabled when BUSY = 0; while BUSY = 1 the write is held and nothing of it happens. -/
def State.acceptRequest (s : State) (isInit : Bool) (p : Plan) : State :=
  if s.busy then s else (s.violateIf (acceptViolation isInit s.mode)).loadPlan isInit p

/-- `Accept` of a reserved word (R110, R222): a violation, an empty plan, no line action, no time. -/
def State.acceptReserved (s : State) : State :=
  if s.busy then s else (s.violate .reservedEncoding).loadPlan false []

/-- Drop the head of the plan; the last action clears BUSY (R111), and ends a run of INIT (R122). -/
def State.popPlan (s : State) : State :=
  match s.plan with
  | [] => s
  | _ :: rest =>
    ((s.setPlan rest).setBusy (if rest.isEmpty then false else s.busy)).setInitRun
      (if rest.isEmpty then false else s.initRun)

/-- The schedule without its head. -/
def State.popTurn (s : State) : State := s.setSchedule s.schedule.tail

/-- A read of the window: REQ reads 0, STATUS its word; no side effect (R28, R29, R53). -/
def State.readRegister (s : State) (offset : Nat) : State :=
  s.setRdata (some (if offset = 4 then s.status else 0))

/-! ### Power-on and reset -/

/-- The LCD's clock: µs since its power-on (R181), which a reset of the block does not stop (DEDUCED, log entry 6). -/
def State.peerTime (s : State) : Nat := s.epoch + s.now

/-- The block's items at their reset values (R34, R240). The LCD's clock goes on. -/
def State.resetBlock (s : State) : State :=
  { s with
    data := 0x0, rs := false, e := true, mode := .uninit, busy := false, plan := [], cv := false, cause := 0
    now := 0, trace := [], initRun := false, epoch := s.peerTime }

/-- The peer at power-on (R181): `Reset8`, or any value in every field but `lastE`, `fault`, `busyUntil`. `fsSeen` is
false, since nothing has been latched. -/
def Peer.powerOn (cfg : Config.Params) (n : Nat) : Peer :=
  match cfg.peerPowerOn with
  | .reset8 => Peer.reset8
  | .any => { Peer.any n with lastE := true, fault := none, busyUntil := 0, fsSeen := false }

/-- Power-on of block and LCD together, at time 0 (R181, R240), with parameters `cfg`. -/
def State.powerOn (cfg : Config.Params) : State :=
  { State.reset with cfg := cfg, peer := Peer.powerOn cfg 0 }

/-- A power cycle in a run: nothing survives (R233) but the model's own bookkeeping of the outside world. -/
def State.powerCycle (s : State) : State :=
  { s.resetBlock with epoch := 0, peer := Peer.powerOn s.cfg s.draws, draws := s.draws + 1 }

/-! ### The peer -/

/-- Set the peer's fault; it is sticky, so a fault already set stays (R180). -/
def Peer.raise (p : Peer) (f : PeerFault) : Peer :=
  match p.fault with
  | none => { p with fault := some f }
  | some _ => p

/-- `raise` on the peer of a state. -/
def State.raisePeer (s : State) (f : PeerFault) : State := s.setPeer (s.peer.raise f)

end Sys2Proof.Machine
end

