-- ==== Sys2Proof/Machine/Plan.lean ====
section
/-! DEFINITION. Plans: STROBE, NIBBLE, BYTE (40_bus_primitives.md R106 to R108), the plan of every request
(41_initialize.md R121, 42_write.md R140 to R142, 43_display_ops.md R160 to R163), the initialisation state machine
(R122), and what can be read off a plan: its events, its least duration, its strobes. -/

namespace Sys2Proof.Machine

/-- `STROBE` (R106). -/
def strobe (c : Config.Params) : Plan :=
  [.wait c.tPre, .setE false, .wait c.tEl, .setE true, .wait c.tEh]

/-- `NIBBLE(n)` (R107). -/
def nibblePlan (c : Config.Params) (n : Nibble) : Plan := [.setData n] ++ strobe c

/-- `BYTE(rs, b)` (R108): the high nibble first. -/
def bytePlan (c : Config.Params) (rs : Bool) (b : Byte) : Plan :=
  [.setRs rs, .wait c.tRs] ++ nibblePlan c (hiNibble b) ++ nibblePlan c (loNibble b) ++ [.wait c.tExec]

/-- The plan of CLEAR (R160), also INIT's last step. -/
def clearPlan (c : Config.Params) : Plan := bytePlan c false cmdClear ++ [.wait c.tClr]

/-- The plan of HOME (R161, 92_eei_decisions.md D19). -/
def homePlan (c : Config.Params) : Plan := bytePlan c false cmdHome ++ [.wait c.tClr]

/-- The plan of SET_CURSOR (R162): any row but 0 and 1 is a silent no-op. -/
def setCursorPlan (c : Config.Params) (column row : Byte) : Plan :=
  if row = 0 then bytePlan c false (ddramCmd ddramRow0 column)
  else if row = 1 then bytePlan c false (ddramCmd ddramRow1 column)
  else []

/-- The plan of GOTO_ADDR (R163). -/
def gotoAddrPlan (c : Config.Params) (address : Byte) : Plan := bytePlan c false (ddramCmd ddramRow0 address)

/-- The states of the initialisation state machine (R122). -/
inductive InitState where
  | uninit
  | pwr
  | boot1
  | boot2
  | boot3
  | switch4
  | fset
  | emode
  | dctrl
  | clear
  | ready
deriving DecidableEq, Repr

/-- A bootstrap pattern with its settle (R121). -/
def bootPlan (c : Config.Params) (n : Nibble) : Plan := nibblePlan c n ++ [.wait c.tBoot]

/-- The segment of actions of each state (R122). -/
def initSegment (c : Config.Params) : InitState → Plan
  | .uninit => []
  | .pwr => [.setMode .boot8, .setRs false, .wait c.tPowerOn]
  | .boot1 => bootPlan c boot8Bit
  | .boot2 => bootPlan c boot8Bit
  | .boot3 => bootPlan c boot8Bit
  | .switch4 => bootPlan c boot4Bit ++ [.setMode .ready]
  | .fset => bytePlan c false cmdFunctionSet
  | .emode => bytePlan c false cmdEntryMode
  | .dctrl => bytePlan c false cmdDisplayCtrl
  | .clear => clearPlan c
  | .ready => []

/-- The column MODE of R122: the mode a state is in, once INIT's first action has been performed. -/
def InitState.mode : InitState → Mode
  | .uninit => .uninit
  | .pwr => .boot8
  | .boot1 => .boot8
  | .boot2 => .boot8
  | .boot3 => .boot8
  | .switch4 => .boot8
  | .fset => .ready
  | .emode => .ready
  | .dctrl => .ready
  | .clear => .ready
  | .ready => .ready

/-- The states INIT passes through while it runs, in order (R122). -/
def initOrder : List InitState :=
  [.pwr, .boot1, .boot2, .boot3, .switch4, .fset, .emode, .dctrl, .clear]

/-- `InitPlan` (R121): the segments in order. -/
def initPlan (c : Config.Params) : Plan := initOrder.flatMap (initSegment c)

/-- The first of the remaining segments that a remaining plan of `left` actions has not finished. -/
def initStateFrom (c : Config.Params) (left : Nat) : List InitState → InitState
  | [] => .ready
  | q :: qs => if (qs.flatMap (initSegment c)).length < left then q else initStateFrom c left qs

/-- The state of R122 a machine state is in: idle, the one its mode says; while an accepted INIT runs (`initRun`), the
one whose segment holds the next action. While another request's plan runs the machine is in none of R122's states
(DESIGN CHOICE, log entry 17). -/
def State.initState (s : State) : Option InitState :=
  if s.plan = [] then
    match s.mode with
    | .uninit => some .uninit
    | .ready => some .ready
    | .boot8 => none
  else if s.initRun && s.plan.isSuffixOf (initPlan s.cfg) then
    some (initStateFrom s.cfg s.plan.length initOrder)
  else none

/-- `Expand` (R110): the plan of a request; a transfer is no request. -/
def expand (c : Config.Params) : Instr → Option Plan
  | .init => some (initPlan c)
  | .writeCmd b => some (bytePlan c false b)
  | .writeChar b => some (bytePlan c true b)
  | .clear => some (clearPlan c)
  | .home => some (homePlan c)
  | .setCursor col row => some (setCursorPlan c col row)
  | .gotoAddr a => some (gotoAddrPlan c a)
  | .lcdNone => none
  | .lcdClearDisplay => none
  | .lcdReturnHome _ => none
  | .lcdEntryModeSet _ _ => none
  | .lcdDisplayControl _ _ _ => none
  | .lcdShift _ _ _ => none
  | .lcdFunctionSet _ _ _ _ => none
  | .lcdSetCgram _ => none
  | .lcdSetDdram _ => none
  | .lcdWriteData _ => none

/-- The trace event of an action, if it is a line action (R30). -/
def Action.event : Action → Option BusEvent
  | .setData n => some (.data n)
  | .setRs v => some (.rs v)
  | .setE v => some (.e v)
  | .wait _ => none
  | .setMode _ => none

/-- The bound of a `Wait`, and 0 for any other action (R104, R111). -/
def Action.bound : Action → Nat
  | .wait d => d
  | _ => 0

/-- The events a plan adds to the trace, in order (20_memory.md R60). -/
def Plan.events (p : Plan) : List BusEvent := p.filterMap Action.event

/-- The minimum duration of a plan: the sum of its waits (R251). -/
def Plan.minDuration : Plan → Nat
  | [] => 0
  | a :: p => a.bound + Plan.minDuration p

/-- The events of a plan with the times they take when every draw is its minimum, from `t` on (R113). -/
def Plan.timeline : Nat → Plan → List (Nat × BusEvent)
  | _, [] => []
  | t, a :: p =>
    match a.event with
    | some ev => (t, ev) :: Plan.timeline t p
    | none => Plan.timeline (t + a.bound) p

/-- The number of falling edges a plan asks for, one a strobe (R106, R251). -/
def Plan.strobes (p : Plan) : Nat := p.count (.setE false)

end Sys2Proof.Machine
end

