-- ==== Sys2Proof/Machine/Display.lean ====
section
/-! DEFINITION. The meanings of CLEAR, HOME, SET_CURSOR and GOTO_ADDR (43_display_ops.md). -/

namespace Sys2Proof.Machine

/-- `CLEAR` (R160). -/
def execClear (s : State) : Host.Outcome State Fault Refusal :=
  done (s.acceptRequest false (clearPlan s.cfg))

/-- `HOME` (R161). -/
def execHome (s : State) : Host.Outcome State Fault Refusal :=
  done (s.acceptRequest false (homePlan s.cfg))

/-- `SET_CURSOR c, r` (R162): a row outside 0 and 1 is no violation and has an empty plan. -/
def execSetCursor (column row : Byte) (s : State) : Host.Outcome State Fault Refusal :=
  done (s.acceptRequest false (setCursorPlan s.cfg column row))

/-- `GOTO_ADDR a` (R163). -/
def execGotoAddr (address : Byte) (s : State) : Host.Outcome State Fault Refusal :=
  done (s.acceptRequest false (gotoAddrPlan s.cfg address))

end Sys2Proof.Machine
end

