-- ==== Sys2Proof/Machine/Init.lean ====
section
/-! DEFINITION. The meaning of INIT (41_initialize.md R120, R121). -/

namespace Sys2Proof.Machine

/-- `INIT` (R120): a repeated INIT is recorded and runs the whole sequence again (92_eei_decisions.md D8). -/
def execInit (s : State) : Host.Outcome State Fault Refusal :=
  done (s.acceptRequest true (initPlan s.cfg))

end Sys2Proof.Machine
end

