-- ==== Sys2Proof/Machine/Peer.lean ====
section
/-! DEFINITION. The reference peer (45_reference_peer.md): latching (R182 to R185), executing a byte (R186 to R196), the
timing check (R197), what a cell of the display shows (R194), and the meanings of the ten LCD transfers. -/

namespace Sys2Proof.Machine

/-! ### Executing a byte -/

/-- A function-set byte, `001xxxxx` (R81). -/
def isFunctionSet (b : Byte) : Bool := b.extractLsb' 5 3 == 0b001#3

/-- `ExecTime(rs, b)` in µs (R197). The first function-set byte latched in 8-bit mode since power-on takes 4100. -/
def Peer.execTime (p : Peer) (rs : Bool) (b : Byte) : Nat :=
  if !rs && (b == 0x01 || b == 0x02 || b == 0x03) then 1520
  else if !rs && isFunctionSet b && p.ifmode == .eight && !p.fsSeen then 4100
  else 37

/-- `Execute(t, rs, b)` (R186) around the effect `f` of the one instruction the byte is. -/
def Peer.execute (p : Peer) (timing : Bool) (t : Nat) (rs : Bool) (b : Byte) (f : Peer → Peer) : Peer :=
  if timing && decide (t < p.busyUntil) then p.raise .overrun
  else { f p with busyUntil := t + p.execTime rs b }

/-- `Execute` on the machine's peer, at the LCD's own time. -/
def State.transfer (s : State) (rs : Bool) (b : Byte) (f : Peer → Peer) : Host.Outcome State Fault Refusal :=
  done (s.setPeer (s.peer.execute s.cfg.peerTiming s.peerTime rs b f))

/-- The byte of a transfer (R81). -/
def lcdByte (i : Instr) : Byte := encodedByte (encode i)

/-- `ClearDisplay` (R187): all 128 cells 0x20, the cursor at 0, increment. -/
def Peer.clearDisplay (p : Peer) : Peer := { p with ddram := [], ac := 0, id := true }

/-- `ReturnHome` (R189). -/
def Peer.returnHome (p : Peer) : Peer := { p with ac := 0 }

/-- `EntryModeSet(i, s)` (R190). -/
def Peer.entryModeSet (p : Peer) (i s : Bool) : Peer := { p with id := i, sh := s }

/-- `DisplayControl(d, c, b)` (R191). -/
def Peer.displayControl (p : Peer) (d c b : Bool) : Peer := { p with dispOn := d, cursorOn := c, blinkOn := b }

/-- `FunctionSet(l, n, f)` (R192), with R197's record that one was latched in 8-bit mode. -/
def Peer.functionSet (p : Peer) (l n f : Bool) : Peer :=
  { p with
    ifmode := if l then .eight else .four
    phase := .hi, lines2 := n, font10 := f
    fsSeen := p.fsSeen || p.ifmode == .eight }

/-- `SetDdram(a)` (R193). -/
def Peer.setDdram (p : Peer) (a : BitVec 7) : Peer :=
  if validAddress p.lines2 a then { p with ac := a } else p.raise .badAddress

/-- `WriteData(b)` (R195). -/
def Peer.writeData (p : Peer) (b : Byte) : Peer :=
  if p.sh then p.raise (.unmodelled b)
  else if !validAddress p.lines2 p.ac then p.raise .badAddress
  else { p with ddram := Memory.write p.ddram p.ac.toNat b, ac := stepAddress p.lines2 p.id p.ac }

/-- The byte 0x00, which is no instruction: the peer's fault UNMODELLED (R188). -/
def execLcdNone (s : State) : Host.Outcome State Fault Refusal :=
  s.transfer false (lcdByte .lcdNone) fun p => p.raise (.unmodelled (lcdByte .lcdNone))

/-- Clear display (R187). -/
def execLcdClearDisplay (s : State) : Host.Outcome State Fault Refusal :=
  s.transfer false (lcdByte .lcdClearDisplay) fun p => p.clearDisplay

/-- Return home (R189); bit 0 is ignored. -/
def execLcdReturnHome (x : Bool) (s : State) : Host.Outcome State Fault Refusal :=
  s.transfer false (lcdByte (.lcdReturnHome x)) fun p => p.returnHome

/-- Entry mode set (R190). -/
def execLcdEntryModeSet (i sh : Bool) (s : State) : Host.Outcome State Fault Refusal :=
  s.transfer false (lcdByte (.lcdEntryModeSet i sh)) fun p => p.entryModeSet i sh

/-- Display control (R191). -/
def execLcdDisplayControl (d c b : Bool) (s : State) : Host.Outcome State Fault Refusal :=
  s.transfer false (lcdByte (.lcdDisplayControl d c b)) fun p => p.displayControl d c b

/-- The cursor/display-shift group: the peer's fault UNMODELLED (R188). -/
def execLcdShift (sc r : Bool) (x : BitVec 2) (s : State) : Host.Outcome State Fault Refusal :=
  s.transfer false (lcdByte (.lcdShift sc r x)) fun p => p.raise (.unmodelled (lcdByte (.lcdShift sc r x)))

/-- Function set (R192). -/
def execLcdFunctionSet (l n f : Bool) (x : BitVec 2) (s : State) : Host.Outcome State Fault Refusal :=
  s.transfer false (lcdByte (.lcdFunctionSet l n f x)) fun p => p.functionSet l n f

/-- The set-CGRAM-address group: the peer's fault UNMODELLED (R188). -/
def execLcdSetCgram (a : BitVec 6) (s : State) : Host.Outcome State Fault Refusal :=
  s.transfer false (lcdByte (.lcdSetCgram a)) fun p => p.raise (.unmodelled (lcdByte (.lcdSetCgram a)))

/-- Set DDRAM address (R193). -/
def execLcdSetDdram (a : BitVec 7) (s : State) : Host.Outcome State Fault Refusal :=
  s.transfer false (lcdByte (.lcdSetDdram a)) fun p => p.setDdram a

/-- Write data (R195). -/
def execLcdWriteData (d : Byte) (s : State) : Host.Outcome State Fault Refusal :=
  s.transfer true (lcdByte (.lcdWriteData d)) fun p => p.writeData d

/-! ### Latching -/

/-- Whether a change of `E` from `last` to `v` is the edge the peer latches on (R182). -/
def latchesOn : Config.Edge → Bool → Bool → Bool
  | .falling, last, v => last && !v
  | .rising, last, v => !last && v

/-- The LCD's power-on time a latch must not come before, in µs (R197). -/
def latchEarliest : Nat := 15000

/-- `Latch(t, n, rs)` (R183, R184, R185, R197): the state after it and, where it completes a byte, the instruction the
peer then executes. R197 gives the 15000 µs check no place in the pseudocode; here it comes first, so a latch that fails
it sets OVERRUN and does nothing else, also where RS has changed or its byte would be refused: DESIGN CHOICE (log entry
21). That it is made at every latch is log entry 18. A latch in 8-bit mode leaves `phase` as it is: HI stays HI (R183), and
LO, with which only a peer that powers on with `Any` can be in 8-bit mode, stays LO until a function set makes it HI
(R192): DESIGN CHOICE (log entry 22). -/
def State.latch (s : State) (n : Nibble) (r : Bool) : State × Option Instr :=
  if s.cfg.peerTiming && decide (s.peerTime < latchEarliest) then (s.raisePeer .overrun, none)
  else
    match s.peer.ifmode, s.peer.phase with
    | .eight, _ => (s.setDraws (s.draws + 1), some (decodeTransfer r (n ++ freeNibble s.draws)))
    | .four, .hi => (s.setPeer { s.peer with hiNib := n, hiRS := r, phase := .lo }, none)
    | .four, .lo =>
      if r ≠ s.peer.hiRS then (s.raisePeer .rsChanged, none)
      else (s.setPeer { s.peer with phase := .hi }, some (decodeTransfer r (s.peer.hiNib ++ n)))

/-- The peer at an event `E v` with `d` and `r` on the lines (R182). -/
def State.peerSees (s : State) (v : Bool) (d : Nibble) (r : Bool) : State × Option Instr :=
  let s' := s.setPeer { s.peer with lastE := v }
  if latchesOn s.cfg.latchEdge s.peer.lastE v then s'.latch d r else (s', none)

/-! ### The display -/

/-- What the cell in `row` and `column` shows (R194); none where R194 gives no cell. -/
def State.visibleCell (s : State) (row column : Nat) : Option Byte :=
  if s.peer.lines2 && decide (row < Config.rows) && decide (column < s.cfg.cols) then
    some (Memory.read s.peer.ddram (rowBase row + column))
  else none

end Sys2Proof.Machine
end

