-- ==== Sys2Proof/Machine/Write.lean ====
section
/-! DEFINITION. The meanings of WRITE_CMD and WRITE_CHAR, and the pseudo-operation string (42_write.md). -/

namespace Sys2Proof.Machine

/-- `WRITE_CMD b` (R140): `BYTE(0, b)`, any byte unchanged. -/
def execWriteCmd (b : Byte) (s : State) : Host.Outcome State Fault Refusal :=
  done (s.acceptRequest false (bytePlan s.cfg false b))

/-- `WRITE_CHAR b` (R141): `BYTE(1, b)`. -/
def execWriteChar (b : Byte) (s : State) : Host.Outcome State Fault Refusal :=
  done (s.acceptRequest false (bytePlan s.cfg true b))

/-- `Expand_string(s)` (R142): one WRITE_CHAR for each byte before the first sentinel; without one, for every byte
(92_eei_decisions.md D23). -/
def expandString (sentinel : Byte) : List Byte → List Instr
  | [] => []
  | b :: bs => if b = sentinel then [] else .writeChar b :: expandString sentinel bs

end Sys2Proof.Machine
end

