-- ==== Sys2Proof/Machine/Dispatch.lean ====
section
/-! DEFINITION. The meaning of every instruction: one arm per constructor of Instr. A request's arm is its acceptance
(40_bus_primitives.md R110); a transfer's arm is the peer's `Execute` (45_reference_peer.md R186). -/

namespace Sys2Proof.Machine

def exec (i : Instr) (s : State) : Host.Outcome State Fault Refusal :=
  match i with
  | .init => Sys2Proof.Machine.execInit s
  | .writeCmd byte => Sys2Proof.Machine.execWriteCmd byte s
  | .writeChar byte => Sys2Proof.Machine.execWriteChar byte s
  | .clear => Sys2Proof.Machine.execClear s
  | .home => Sys2Proof.Machine.execHome s
  | .setCursor column row => Sys2Proof.Machine.execSetCursor column row s
  | .gotoAddr address => Sys2Proof.Machine.execGotoAddr address s
  | .lcdNone => Sys2Proof.Machine.execLcdNone s
  | .lcdClearDisplay => Sys2Proof.Machine.execLcdClearDisplay s
  | .lcdReturnHome x => Sys2Proof.Machine.execLcdReturnHome x s
  | .lcdEntryModeSet inc sh => Sys2Proof.Machine.execLcdEntryModeSet inc sh s
  | .lcdDisplayControl d c b => Sys2Proof.Machine.execLcdDisplayControl d c b s
  | .lcdShift sc r x => Sys2Proof.Machine.execLcdShift sc r x s
  | .lcdFunctionSet l n f x => Sys2Proof.Machine.execLcdFunctionSet l n f x s
  | .lcdSetCgram a => Sys2Proof.Machine.execLcdSetCgram a s
  | .lcdSetDdram a => Sys2Proof.Machine.execLcdSetDdram a s
  | .lcdWriteData d => Sys2Proof.Machine.execLcdWriteData d s

end Sys2Proof.Machine
end

