-- ==== Sys2Proof/Machine/Sequencer.lean ====
section
/-! DEFINITION. Who moves and what the move is: the sequencer's step (40_bus_primitives.md R111), the host's steps
(R112), the register window (20_memory.md R51, R53), reset (70_reset_and_hazards.md R240, R241) and power-on. -/

namespace Sys2Proof.Machine

/-- One move of the machine. -/
inductive Move where
  /-- An instruction runs and the step ends with it: an accepted request, or a transfer a reset's edge completed. -/
  | run (i : Instr) (s : State)
  /-- An instruction runs inside a block step, and then the step's own time passes (R111). -/
  | runTimed (i : Instr) (s : State)
  /-- The step ends in this state. -/
  | ends (s : State)
  /-- The model has no step (R51). -/
  | stop (r : Refusal)
deriving DecidableEq, Repr

/-- The block's step (R111). The head action takes effect at the current time, then time passes. `SetE` is seen by the
peer, which may complete a byte and execute it at that same time. With an empty plan the block has no step, and nothing
happens. -/
def State.blockMove (s : State) : Move :=
  match s.plan with
  | [] => .ends s.drift
  | .setData n :: _ => .ends ((s.popPlan.driveData n).passTime 0).drift
  | .setRs v :: _ => .ends ((s.popPlan.driveRs v).passTime 0).drift
  | .setE v :: _ =>
    match (s.popPlan.driveE v).peerSees v s.data s.rs with
    | (s', none) => .ends (s'.passTime 0).drift
    | (s', some i) => .runTimed i s'
  | .wait d :: _ => .ends (s.popPlan.passTime d).drift
  | .setMode m :: _ => .ends ((s.popPlan.setMode m).passTime 0).drift

/-- The host idles, only when BUSY = 0 (R112 (c)). -/
def State.idleMove (s : State) : Move := .ends (s.passTime 0).drift

/-- The reset event (R240, R241). The lines take their reset values at once. Where `E` was 0, its rise is an edge the
peer sees; a peer that latches on it samples each of DATA and RS at its old or its reset level: free values 2 and 3 of
the draw (R241 (a)). -/
def State.resetMove (s : State) : Move :=
  let d := if freeBit s.draws 2 then s.data else 0
  let r := if freeBit s.draws 3 then s.rs else false
  match (s.resetBlock.setDraws (s.draws + 1)).peerSees true d r with
  | (s', none) => .ends s'.drift
  | (s', some i) => .run i s'

/-- A host write of `w` to REQ (R110): held while BUSY = 1, the block moving on with the write still at the head of the
schedule; else accepted, a reserved word by R222. -/
def State.requestMove (s : State) (w : Word) : Move :=
  if s.busy then s.blockMove
  else
    match decodeReq w with
    | .ok i => .run i s.popTurn
    | .error _ => .ends s.popTurn.acceptReserved.drift

/-- A host access (R51, R53, R29): anything but one 32-bit access at 0x0 or 0x4 is refused; a read is never held; a
write to STATUS is ignored. -/
def State.accessMove (s : State) (a : Access) : Move :=
  if accessFits a.offset a.bytes then
    match a.write with
    | none => .ends (s.popTurn.readRegister a.offset).drift
    | some w => if a.offset = 0 then s.requestMove w else .ends s.popTurn.drift
  else .stop (.hostAccess a.offset a.bytes)

/-- Who moves: the head of the schedule; with none left, the block while it has a plan and then the idling host. -/
def State.move (s : State) : Move :=
  match s.schedule with
  | [] => if s.plan.isEmpty then s.idleMove else s.blockMove
  | .block :: _ => s.popTurn.blockMove
  | .reset :: _ => s.popTurn.resetMove
  | .powerCycle :: _ => .ends s.popTurn.powerCycle
  | .host .idle :: _ => if s.busy then s.blockMove else s.popTurn.idleMove
  | .host (.access a) :: _ => s.accessMove a

/-- The time of a block step in which a transfer was executed (R111). -/
def afterTransfer : Host.Outcome State Fault Refusal → Host.Outcome State Fault Refusal
  | .next s => .next (s.passTime 0)
  | .fault r => .fault r
  | .refused r => .refused r

/-- The state in which the very next step accepts the word `w`: the host's write at the head of the schedule, and the
block not busy. -/
def State.fetchRequest (s : State) (w : Word) : State :=
  { s with
    plan := [], busy := false, initRun := false
    schedule := .host (.access ⟨0, 4, some w⟩) :: s.schedule }

/-- The actions left of `BYTE(rs, b)` from the edge that latches its low nibble on. -/
def lastLatch (c : Config.Params) (r : Bool) (b : Byte) : Plan :=
  (bytePlan c r b).drop (match c.latchEdge with | .falling => 10 | .rising => 12)

/-- The state in which the very next step makes the peer execute the byte `b` sent with `rs`: the block at the edge that
latches the low nibble of `BYTE(rs, b)`, the peer in 4-bit mode with the high nibble pending and, where the timing
check is on, powered for long enough that it lets the latch through. -/
def State.fetchTransfer (s : State) (r : Bool) (b : Byte) : State :=
  { s with
    data := loNibble b, rs := r, e := s.cfg.latchEdge == .falling
    plan := lastLatch s.cfg r b, busy := true, initRun := false
    schedule := .block :: s.schedule
    epoch := if s.cfg.peerTiming then max s.epoch latchEarliest else s.epoch
    peer := { s.peer with
      ifmode := .four, phase := .lo, hiNib := hiNibble b, hiRS := r, lastE := s.cfg.latchEdge == .falling } }

end Sys2Proof.Machine
end

