-- ==== Sys2Proof/Machine/Step.lean ====
section
/-! DEFINITION. One step of the machine, and the state whose next step runs a given instruction. -/

namespace Sys2Proof.Machine

/-- The outcome of a move. An instruction is run by `exec`, and by nothing else. -/
def runMove : Move → Host.Outcome State Fault Refusal
  | .run i s => exec i s
  | .runTimed i s => afterTransfer (exec i s)
  | .ends s => .next s
  | .stop r => .refused r

/-- One step: the move of the agent whose turn it is. -/
def step (s : State) : Host.Outcome State Fault Refusal := runMove s.move

/-- `s` with the instruction of bits `w` where `step` takes its next instruction: a request as the host's next write to
REQ, a transfer as the byte the block's next strobe edge completes. -/
def State.withFetchWord (s : State) (nbits w : Nat) : State :=
  if nbits ≤ 16 then s.fetchTransfer ((BitVec.ofNat 9 w).getLsbD 8) (BitVec.ofNat 8 w)
  else s.fetchRequest (BitVec.ofNat 32 w)

end Sys2Proof.Machine
end

