-- ==== Sys2Proof/Machine/Assembler.lean ====
section
/-! DEFINITION. The assembler of 30_encoding.md R76 and R77: lines as terms, the words they stand for, and the text form.
It is host software: no step of the machine reads it. -/

namespace Sys2Proof.Machine

/-- One line: an operation with the numbers written after it (R76), or the pseudo-operation string (R77). -/
inductive AsmLine where
  | initLine
  | cmdLine (b : Nat)
  | charLine (b : Nat)
  | clearLine
  | homeLine
  | setcurLine (c r : Nat)
  | gotoLine (a : Nat)
  /-- `.word W`: any 32-bit word, also a reserved one. -/
  | wordLine (w : Nat)
  | stringLine (bytes : List Byte)
  /-- A line that holds only a comment or nothing. -/
  | emptyLine
deriving DecidableEq, Repr

/-- The request word of an instruction; a transfer has none. -/
def requestWord (i : Instr) : Option Word :=
  match encode i with
  | .req w => some w
  | .lcd _ => none

/-- The word of a one-operand line; an operand that does not fit in 8 bits is refused, not truncated (R76). -/
def operandWord (f : Byte → Instr) (n : Nat) : Option (List Word) :=
  if operandFits n then (requestWord (f (BitVec.ofNat 8 n))).toList else none

/-- The words of a line (R76, R77). -/
def assemble (sentinel : Byte) : AsmLine → Option (List Word)
  | .initLine => (requestWord .init).toList
  | .cmdLine b => operandWord .writeCmd b
  | .charLine b => operandWord .writeChar b
  | .clearLine => (requestWord .clear).toList
  | .homeLine => (requestWord .home).toList
  | .setcurLine c r => if operandFits r then operandWord (fun col => .setCursor col (BitVec.ofNat 8 r)) c else none
  | .gotoLine a => operandWord .gotoAddr a
  | .wordLine w => if wordFits w then some [BitVec.ofNat 32 w] else none
  | .stringLine bytes => some ((expandString sentinel bytes).filterMap requestWord)
  | .emptyLine => some []

/-! ### Text

PRESUMED (log entry 13), where R76 gives no form: blanks separate tokens, a number is not signed, hexadecimal digits may
be of either case, and within a string a backslash followed by 0 is the byte 0x00, by any other character that character. -/

/-- A token of a line. -/
inductive Token where
  | word (cs : List Char)
  | num (n : Nat)
  | comma
  | str (bytes : List Byte)
deriving DecidableEq, Repr

/-- Where the scanner stands: between tokens, in a word, in a string, after its backslash, in a character literal
before and after its character. -/
inductive ScanState where
  | outside
  | inWord (acc : List Char)
  | inString (acc : List Byte)
  | escaped (acc : List Byte)
  | quoted
  | closing (c : Char)
deriving DecidableEq, Repr

/-- The value of a digit in a base of at most 16. -/
def digitValue (base : Nat) (c : Char) : Option Nat :=
  let n := c.toNat
  let d := if 48 ≤ n ∧ n ≤ 57 then n - 48 else if 97 ≤ n ∧ n ≤ 102 then n - 87
    else if 65 ≤ n ∧ n ≤ 70 then n - 55 else 16
  if d < base then some d else none

/-- The number a list of digits denotes, after `acc`. -/
def digitsValue (base : Nat) : Nat → List Char → Option Nat
  | acc, [] => some acc
  | acc, c :: cs =>
    match digitValue base c with
    | some d => digitsValue base (acc * base + d) cs
    | none => none

/-- The token a run of word characters is: a hexadecimal or decimal number, or a name. -/
def wordToken (cs : List Char) : Option Token :=
  match cs with
  | '0' :: 'x' :: c :: ds => (digitsValue 16 0 (c :: ds)).map .num
  | c :: ds =>
    match digitValue 10 c with
    | some _ => (digitsValue 10 0 (c :: ds)).map .num
    | none => some (.word (c :: ds))
  | [] => none

/-- The ASCII code of a character (00_scope.md R10). -/
def asciiByte (c : Char) : Option Byte := if c.toNat < 128 then some (BitVec.ofNat 8 c.toNat) else none

/-- A token put in front of the rest of a line's tokens. -/
def consToken (t : Option Token) (ts : Option (List Token)) : Option (List Token) :=
  match t, ts with
  | some t, some ts => some (t :: ts)
  | _, _ => none

/-- The tokens of a line from a scanner state on; a comment runs from `;` to the end of the line. -/
def scan : ScanState → List Char → Option (List Token)
  | .outside, [] => some []
  | .inWord acc, [] => (wordToken acc.reverse).map fun t => [t]
  | .inString _, [] => none
  | .escaped _, [] => none
  | .quoted, [] => none
  | .closing _, [] => none
  | .outside, c :: cs =>
    if c = ';' then some []
    else if c = ' ' ∨ c = '\t' then scan .outside cs
    else if c = ',' then consToken (some .comma) (scan .outside cs)
    else if c = '"' then scan (.inString []) cs
    else if c = '\'' then scan .quoted cs
    else scan (.inWord [c]) cs
  | .inWord acc, c :: cs =>
    if c = ';' then (wordToken acc.reverse).map fun t => [t]
    else if c = ' ' ∨ c = '\t' then consToken (wordToken acc.reverse) (scan .outside cs)
    else if c = ',' then consToken (wordToken acc.reverse) (consToken (some .comma) (scan .outside cs))
    else scan (.inWord (c :: acc)) cs
  | .inString acc, c :: cs =>
    if c = '"' then consToken (some (.str acc.reverse)) (scan .outside cs)
    else if c = '\\' then scan (.escaped acc) cs
    else
      match asciiByte c with
      | some b => scan (.inString (b :: acc)) cs
      | none => none
  | .escaped acc, c :: cs =>
    if c = '0' then scan (.inString (0 :: acc)) cs
    else
      match asciiByte c with
      | some b => scan (.inString (b :: acc)) cs
      | none => none
  | .quoted, c :: cs => scan (.closing c) cs
  | .closing d, c :: cs =>
    if c = '\'' then consToken ((asciiByte d).map fun b => .num b.toNat) (scan .outside cs) else none

/-- The line a list of tokens is (R76, R77). -/
def lineOfTokens : List Token → Option AsmLine
  | [] => some .emptyLine
  | [.word ['i', 'n', 'i', 't']] => some .initLine
  | [.word ['c', 'm', 'd'], .num b] => some (.cmdLine b)
  | [.word ['c', 'h', 'a', 'r'], .num b] => some (.charLine b)
  | [.word ['c', 'l', 'e', 'a', 'r']] => some .clearLine
  | [.word ['h', 'o', 'm', 'e']] => some .homeLine
  | [.word ['s', 'e', 't', 'c', 'u', 'r'], .num c, .comma, .num r] => some (.setcurLine c r)
  | [.word ['g', 'o', 't', 'o'], .num a] => some (.gotoLine a)
  | [.word ['.', 'w', 'o', 'r', 'd'], .num w] => some (.wordLine w)
  | [.word ['s', 't', 'r', 'i', 'n', 'g'], .str bytes] => some (.stringLine bytes)
  | _ => none

/-- The words of a line of text, or none where the assembler refuses it. -/
def assembleText (sentinel : Byte) (line : List Char) : Option (List Word) :=
  match scan .outside line with
  | some ts =>
    match lineOfTokens ts with
    | some l => assemble sentinel l
    | none => none
  | none => none

end Sys2Proof.Machine
end

