-- ==== Sys2Proof/Safety.lean ====
section
/-! DEFINITION. What claims say about: the invariant of the machine, safe outcomes, and what a peer sees of a plan. -/

namespace Sys2Proof.Machine

/-- From the level `e` of the enable line, every SetE of a plan is an edge and the line ends at 1 (40_bus_primitives.md
R106 (c), 10_state.md R23). -/
def Plan.strobeOk : Bool → Plan → Bool
  | e, [] => e
  | e, .setE v :: p => (v != e) && Plan.strobeOk v p
  | e, .setData _ :: p => Plan.strobeOk e p
  | e, .setRs _ :: p => Plan.strobeOk e p
  | e, .wait _ :: p => Plan.strobeOk e p
  | e, .setMode _ :: p => Plan.strobeOk e p

/-- From mode `m`, a plan never sets UNINIT and does not end in BOOT8 (10_state.md R24). -/
def Plan.modeOk : Mode → Plan → Bool
  | m, [] => m != .boot8
  | _, .setMode m :: p => m != .uninit && Plan.modeOk m p
  | m, .setData _ :: p => Plan.modeOk m p
  | m, .setRs _ :: p => Plan.modeOk m p
  | m, .setE _ :: p => Plan.modeOk m p
  | m, .wait _ :: p => Plan.modeOk m p

/-- The timestamps of a trace never decrease from `t` on, and none is later than `now` (20_memory.md R60). -/
def traceOk (now : Nat) : Nat → List (Nat × BusEvent) → Bool
  | t, [] => t ≤ now
  | t, (u, _) :: l => t ≤ u && traceOk now u l

/-- The codes `CAUSE` can hold, with CV telling 0 from the rest (10_state.md R27, 60_exceptions.md R221). -/
def causeOk (cv : Bool) (cause : BitVec 3) : Bool :=
  if cv then cause == 1 || cause == 2 || cause == 3 else cause == 0

/-- The invariant of the machine: what holds at power-on and after every step. -/
structure State.Inv (s : State) : Prop where
  /-- `BUSY = 1` exactly when PLAN is non-empty (R26). -/
  busyPlan : s.busy = !s.plan.isEmpty
  /-- Every remaining SetE is an edge, and E rests at 1 (R23, R106 (c)). -/
  strobes : Plan.strobeOk s.e s.plan = true
  /-- MODE returns to UNINIT by reset only and BOOT8 is left before INIT ends (R24). -/
  modes : Plan.modeOk s.mode s.plan = true
  /-- A peer without a fault has seen the level E has (R182). -/
  lastE : s.peer.fault = none → s.peer.lastE = s.e
  /-- CV and CAUSE agree (R27, R221). -/
  causes : causeOk s.cv s.cause = true
  /-- Timestamps never decrease (R60). -/
  times : traceOk s.now 0 s.trace = true
  /-- A running INIT has a tail of its plan left, in the mode of its state once its first action is performed (R122). -/
  initRuns : s.initRun = true → s.plan ≠ [] ∧ s.plan <:+ initPlan s.cfg ∧
    (s.plan = initPlan s.cfg ∨ s.mode = (initStateFrom s.cfg s.plan.length initOrder).mode)
  /-- DDRAM is in canonical form. -/
  memory : Memory.wf s.peer.ddram = true

/-- All that is not the peer's is the same in two states; only the counter of free values may differ. -/
structure SameBlock (s t : State) : Prop where
  data : t.data = s.data
  rs : t.rs = s.rs
  e : t.e = s.e
  mode : t.mode = s.mode
  busy : t.busy = s.busy
  plan : t.plan = s.plan
  cv : t.cv = s.cv
  cause : t.cause = s.cause
  now : t.now = s.now
  trace : t.trace = s.trace
  initRun : t.initRun = s.initRun
  epoch : t.epoch = s.epoch
  schedule : t.schedule = s.schedule
  rdata : t.rdata = s.rdata
  cfg : t.cfg = s.cfg

/-- The peer may only have changed as a peer that has a fault does: without a fault it is the same (45_reference_peer.md
R180). -/
def PeerKept (s t : State) : Prop :=
  t.peer.fault = s.peer.fault ∧ (s.peer.fault = none → t.peer = s.peer ∧ t.draws = s.draws)

/-- What the acceptance of a request leaves (40_bus_primitives.md R110): its plan loaded, as an INIT's or another's, the
violation with code `v`, if any, recorded as 10_state.md R27 says, and everything else as it was. -/
structure Accepted (s : State) (isInit : Bool) (v : Option (BitVec 3)) (p : Plan) (t : State) : Prop where
  plan : t.plan = p
  busy : t.busy = !p.isEmpty
  initRun : t.initRun = isInit
  cv : t.cv = (s.cv || v.isSome)
  cause : t.cause = if s.cv then s.cause else v.getD s.cause
  data : t.data = s.data
  rs : t.rs = s.rs
  e : t.e = s.e
  mode : t.mode = s.mode
  now : t.now = s.now
  trace : t.trace = s.trace
  epoch : t.epoch = s.epoch
  schedule : t.schedule = s.schedule
  rdata : t.rdata = s.rdata
  cfg : t.cfg = s.cfg
  peer : PeerKept s t

/-- The peer is free to execute a byte now: no fault, and not busy where the timing check is on (45_reference_peer.md
R186). -/
structure State.PeerFree (s : State) : Prop where
  fault : s.peer.fault = none
  onTime : s.cfg.peerTiming = false ∨ s.peer.busyUntil ≤ s.peerTime

/-- The next step is the block's (40_bus_primitives.md R111, R112): nothing is scheduled, or the block's turn is at the
head of the schedule, or a turn of the host that is held while `BUSY = 1`. -/
def State.blockMoves (s : State) : Bool :=
  match s.schedule with
  | [] => true
  | .block :: _ => true
  | .host .idle :: _ => s.busy
  | .host (.access a) :: _ => s.busy && a.write.isSome && a.bytes == 4 && a.offset == 0
  | .reset :: _ => false
  | .powerCycle :: _ => false

/-- The schedule after a step of the block: its own turn is spent, a held turn of the host stays. -/
def State.turnTaken (s : State) : List Turn :=
  match s.schedule with
  | .block :: rest => rest
  | q => q

/-- What every step of the block does whatever its action (40_bus_primitives.md R111): the head of the plan is gone, the
last action ends the request, and the block's turn is spent. -/
def State.headTaken (s : State) (rest : Plan) : State :=
  { s with
    plan := rest
    busy := if rest.isEmpty then false else s.busy
    initRun := if rest.isEmpty then false else s.initRun
    schedule := s.turnTaken }

/-- The next step of the block is an event `E v` on which the peer latches, not too early for the timing check
(45_reference_peer.md R182, R197), with the peer not in a fault. -/
structure State.LatchesNext (s : State) (v : Bool) (rest : Plan) : Prop where
  moves : s.blockMoves = true
  plan : s.plan = .setE v :: rest
  edge : latchesOn s.cfg.latchEdge s.peer.lastE v = true
  onTime : s.cfg.peerTiming = false ∨ 15000 ≤ s.peerTime
  fault : s.peer.fault = none

/-- The schedule's head is not a reset event or a power cycle. -/
def State.noReset (s : State) : Bool :=
  match s.schedule with
  | .reset :: _ => false
  | .powerCycle :: _ => false
  | _ => true

/-- A step that answers a next state. -/
def answersNext (o : Host.Outcome State Fault Refusal) : Bool :=
  match o with
  | .next _ => true
  | .fault _ => false
  | .refused _ => false

/-- The schedule's next turn asks for an access the window does not have (R51). -/
def State.asksBadAccess (s : State) : Bool :=
  match s.schedule with
  | .host (.access a) :: _ => !accessFits a.offset a.bytes
  | _ => false

/-- What a peer that latches on `edge` samples while a plan runs, as (RS, nibble), from the levels of the lines
(45_reference_peer.md R182). -/
def Plan.latched (edge : Config.Edge) : Nibble → Bool → Bool → Plan → List (Bool × Nibble)
  | _, _, _, [] => []
  | _, r, e, .setData n :: p => Plan.latched edge n r e p
  | d, _, e, .setRs v :: p => Plan.latched edge d v e p
  | d, r, e, .setE v :: p =>
    if latchesOn edge e v then (r, d) :: Plan.latched edge d r v p else Plan.latched edge d r v p
  | d, r, e, .wait _ :: p => Plan.latched edge d r e p
  | d, r, e, .setMode _ :: p => Plan.latched edge d r e p

/-- Each SetData is followed at once by a STROBE and each STROBE is preceded by a SetData; nothing else moves E
(40_bus_primitives.md R109 (b)). -/
def Plan.framed (c : Config.Params) : Plan → Bool
  | [] => true
  | .setData _ :: .wait a :: .setE false :: .wait b :: .setE true :: .wait d :: p =>
    a == c.tPre && b == c.tEl && d == c.tEh && Plan.framed c p
  | .setData _ :: _ => false
  | .setE _ :: _ => false
  | .setRs _ :: p => Plan.framed c p
  | .wait _ :: p => Plan.framed c p
  | .setMode _ :: p => Plan.framed c p

/-- A BYTE on the bus as the peer samples it: two nibbles under one RS, the high one first (R108, R109 (d)). -/
def byteLatches (r : Bool) (b : Byte) : List (Bool × Nibble) := [(r, hiNibble b), (r, loNibble b)]

/-- What a peer samples of a request: INIT's four bootstrap nibbles and four bytes (41_initialize.md R121), one byte of
any other request, nothing of a SET_CURSOR to a row outside 0 and 1 (43_display_ops.md R162). -/
def requestLatches : Instr → List (Bool × Nibble)
  | .init => [(false, 3), (false, 3), (false, 3), (false, 2)] ++ byteLatches false 0x28 ++ byteLatches false 0x06
      ++ byteLatches false 0x0C ++ byteLatches false 0x01
  | .writeCmd b => byteLatches false b
  | .writeChar b => byteLatches true b
  | .clear => byteLatches false 0x01
  | .home => byteLatches false 0x02
  | .setCursor c r =>
    if r = 0 then byteLatches false (0x80 + c) else if r = 1 then byteLatches false (0xC0 + c) else []
  | .gotoAddr a => byteLatches false (0x80 + a)
  | _ => []

/-- `InitDone` (45_reference_peer.md R198): what INIT brings the peer to. -/
def Peer.initDone (p : Peer) : Prop :=
  p.ifmode = .four ∧ p.phase = .hi ∧ p.lines2 = true ∧ p.font10 = false ∧ p.id = true ∧ p.sh = false ∧
  p.dispOn = true ∧ p.cursorOn = false ∧ p.blinkOn = false ∧ p.ac = 0 ∧
  (∀ a, Memory.read p.ddram a = 0x20) ∧ p.fault = none

end Sys2Proof.Machine
end

