-- ==== Sys2Proof/Certificates/Slice0/Obligations.lean ====
section
/-! DEFINITION. The statements for the provers, from the spec's numbered rules. -/

open Sys2Proof Sys2Proof.Machine

/-! ### Encoding -/

/-- Every well-formed instruction, request or transfer, comes back from its encoding (R73, R81). -/
def Obligations.DecodeOfEncode : Prop :=
  ∀ i : Instr, i.wellFormed = true → decode (encode i) = .ok i

/-- Each word and each transfer has one meaning: what decodes to an instruction is that instruction's encoding (R73). -/
def Obligations.EncodeOfDecode : Prop :=
  ∀ (e : Encoded) (i : Instr), decode e = .ok i → encode i = e

/-- Exactly 66,307 words decode to a request: an inference the spec marks as its own in R73. -/
def Obligations.RequestWordCount : Prop :=
  Set.ncard {w : Word | ∃ i, decodeReq w = .ok i} = 66307

/-- R74, R222: which words are reserved, by their fields as numbers, and what writing one does. -/
def Obligations.ReservedWordIsRecorded : Prop :=
  (∀ w : Word, (∀ i, decodeReq w ≠ .ok i) ↔
    (w.toNat / 2 ^ 20 ≠ 0 ∨
     (w.toNat / 2 ^ 16 % 16 = 0 ∨ 8 ≤ w.toNat / 2 ^ 16 % 16) ∨
     ((w.toNat / 2 ^ 16 % 16 = 1 ∨ w.toNat / 2 ^ 16 % 16 = 4 ∨ w.toNat / 2 ^ 16 % 16 = 5) ∧
       (w.toNat / 2 ^ 8 % 256 ≠ 0 ∨ w.toNat % 256 ≠ 0)) ∨
     ((w.toNat / 2 ^ 16 % 16 = 2 ∨ w.toNat / 2 ^ 16 % 16 = 3 ∨ w.toNat / 2 ^ 16 % 16 = 7) ∧
       w.toNat / 2 ^ 8 % 256 ≠ 0))) ∧
  (∀ (s : State) (w : Word) (rest : List Turn),
    s.schedule = .host (.access ⟨0, 4, some w⟩) :: rest → s.busy = false → (∀ i, decodeReq w ≠ .ok i) →
    ∃ t, step s = .next t ∧ Accepted (s.setSchedule rest) false (some 1) [] t)

/-- Words written out from R70, R71, R76 and R81 decode to what they stand for. -/
def Obligations.SpecWordsDecode : Prop :=
  decodeTableWord 32 0x00010000 = some .init ∧
  decodeTableWord 32 0x0002000F = some (.writeCmd 0x0F) ∧
  decodeTableWord 32 0x00030041 = some (.writeChar 0x41) ∧
  decodeTableWord 32 0x00040000 = some .clear ∧
  decodeTableWord 32 0x00050000 = some .home ∧
  decodeTableWord 32 0x00060105 = some (.setCursor 0x05 0x01) ∧
  decodeTableWord 32 0x00070040 = some (.gotoAddr 0x40) ∧
  decodeTableWord 32 0x80010000 = none ∧
  decodeTableWord 16 0b000000110 = some (.lcdEntryModeSet true false) ∧
  decodeTableWord 16 0b000101000 = some (.lcdFunctionSet false true false 0) ∧
  decodeTableWord 16 0b011000101 = some (.lcdSetDdram 0x45) ∧
  decodeTableWord 16 0b101000001 = some (.lcdWriteData 0x41)

/-- No word and no transfer, reserved or not, fits two rows of opcode_table.json; one that fits a row decodes to an
instruction of that row, and one that decodes fits the row of its instruction (R71, R81). -/
def Obligations.TableRowsDoNotOverlap : Prop :=
  (∀ (e : Encoded) (i j : Instr), (tableRow i).fits e = true → (tableRow j).fits e = true → tableRow i = tableRow j) ∧
  (∀ (e : Encoded) (i : Instr), (tableRow i).fits e = true →
    ∃ k, decode e = .ok k ∧ tableRow k = tableRow i) ∧
  (∀ (e : Encoded) (i : Instr), decode e = .ok i → (tableRow i).fits e = true)

/-! ### What a step runs -/

/-- When the word the host writes decodes and the block is not busy, the step is that instruction's `exec`, with the
host's turn spent (R110). That the write is a turn of a schedule is the model's choice (log entry 7). -/
def Obligations.StepRunsRequestWord : Prop :=
  ∀ (s : State) (w : Word) (rest : List Turn) (i : Instr),
    s.schedule = .host (.access ⟨0, 4, some w⟩) :: rest → s.busy = false → decodeReq w = .ok i →
    step s = exec i (s.setSchedule rest)

/-- When the edge of the block's next action completes a byte in 4-bit mode, the step is `exec` of the transfer that byte
is, on the state after the action, and then the time of the block's step (R111, R182, R184). The block's turn and its
schedule are the model's choice (log entry 7); that the byte is executed before the step's time passes is log entry 19. -/
def Obligations.StepRunsTransfer : Prop :=
  ∀ (s : State) (v : Bool) (rest : Plan), s.LatchesNext v rest → s.peer.ifmode = .four → s.peer.phase = .lo →
    s.peer.hiRS = s.rs →
    step s = afterTransfer (exec (decodeTransfer s.rs (s.peer.hiNib ++ s.data))
      { s.headTaken rest with
        e := v, trace := s.trace ++ [(s.now, .e v)]
        peer := { s.peer with lastE := v, phase := .hi } })

/-- `withFetchWord` puts an instruction where the very next step runs it. The placing is the model's (log entry 11). -/
def Obligations.FetchedWordRuns : Prop :=
  (∀ (s : State) (w : Nat) (i : Instr), decodeTableWord 32 w = some i →
    step (s.withFetchWord 32 w) = exec i { s with plan := [], busy := false, initRun := false }) ∧
  (∀ (s : State) (w : Nat) (i : Instr), decodeTableWord 16 w = some i →
    ∃ u, step (s.withFetchWord 16 w) = afterTransfer (exec i u) ∧ u.peer.ddram = s.peer.ddram ∧
      u.peer.ac = s.peer.ac ∧ u.peer.lines2 = s.peer.lines2 ∧ u.peer.fault = s.peer.fault ∧ u.cfg = s.cfg ∧
      u.now = s.now)

/-- While BUSY = 1 a write to REQ is held (R25, R110): the write stays at the head of the schedule, the block performs
its own next action, and nothing of the request happens; `exec` of a held request changes nothing (log entries 7 and 10). -/
def Obligations.RequestIsHeldWhileBusy : Prop :=
  (∀ (s : State) (w : Word) (rest : List Turn),
    s.schedule = .host (.access ⟨0, 4, some w⟩) :: rest → s.busy = true → s.plan ≠ [] →
    ∃ t, step s = .next t ∧ t.schedule = s.schedule ∧ t.plan = s.plan.tail ∧ t.busy = !s.plan.tail.isEmpty ∧
      t.cv = s.cv ∧ t.cause = s.cause) ∧
  (∀ (i : Instr) (s : State) (p : Plan), expand s.cfg i = some p → s.busy = true → s.peer.fault = none →
    exec i s = .next s)

/-! ### The actions and the sequencer -/

/-- R101: `SetData(n)`, and that the step changes nothing else. Whose turn it is, and the schedule after it, are the
model's choice (log entry 7). -/
def Obligations.SetDataStep : Prop :=
  ∀ (s : State) (n : Nibble) (rest : Plan), s.blockMoves = true → s.plan = .setData n :: rest →
    ∃ t, step s = .next t ∧ t.data = n ∧ t.trace = s.trace ++ [(s.now, .data n)] ∧ s.now ≤ t.now ∧
      SameBlock { s.headTaken rest with data := n, trace := s.trace ++ [(s.now, .data n)], now := t.now } t ∧
      (s.peer.fault = none → t.peer = s.peer)

/-- R102: `SetRS(v)`, and that the step changes nothing else; every byte's plan begins with it. Whose turn it is, and the
schedule after it, are the model's choice (log entry 7). -/
def Obligations.SetRsStep : Prop :=
  (∀ (s : State) (v : Bool) (rest : Plan), s.blockMoves = true → s.plan = .setRs v :: rest →
    ∃ t, step s = .next t ∧ t.rs = v ∧ t.trace = s.trace ++ [(s.now, .rs v)] ∧ s.now ≤ t.now ∧
      SameBlock { s.headTaken rest with rs := v, trace := s.trace ++ [(s.now, .rs v)], now := t.now } t ∧
      (s.peer.fault = none → t.peer = s.peer)) ∧
  (∀ (c : Config.Params) (r : Bool) (b : Byte), (bytePlan c r b).head? = some (.setRs r))

/-- R103, R182: `SetE(v)` drives and records the line and changes nothing else of the block; the peer has then seen the
level, and one that does not latch on this change is otherwise as it was. Whose turn it is, and the schedule after it,
are the model's choice (log entry 7). -/
def Obligations.SetEStep : Prop :=
  ∀ (s : State) (v : Bool) (rest : Plan), s.blockMoves = true → s.plan = .setE v :: rest →
    ∃ t, step s = .next t ∧ t.e = v ∧ t.trace = s.trace ++ [(s.now, .e v)] ∧ s.now ≤ t.now ∧
      SameBlock { s.headTaken rest with e := v, trace := s.trace ++ [(s.now, .e v)], now := t.now } t ∧
      (t.peer.fault = none → t.peer.lastE = v) ∧
      (s.peer.fault = none → latchesOn s.cfg.latchEdge s.peer.lastE v = false →
        t.peer = { s.peer with lastE := v })

/-- R104: `Wait(d)` lets `d` µs and a free value more pass, at least `d` with no upper bound, and changes nothing else.
The form of the free value is log entry 2; whose turn it is, and the schedule after it, are the model's choice (log entry
7). -/
def Obligations.WaitStep : Prop :=
  ∀ (s : State) (d : Nat) (rest : Plan), s.blockMoves = true → s.plan = .wait d :: rest →
    ∃ t, step s = .next t ∧ t.now = s.now + d + freeDelay s.draws ∧ s.now + d ≤ t.now ∧
      SameBlock { s.headTaken rest with now := t.now } t ∧ (s.peer.fault = none → t.peer = s.peer)

/-- R105: `SetMode(m)`: the mode, and nothing else but the time of a block step (R111); only INIT's plan holds it, with
BOOT8 and READY. The form of that time is log entry 2; whose turn it is, and the schedule after it, are the model's choice
(log entry 7). -/
def Obligations.SetModeStep : Prop :=
  (∀ (s : State) (m : Mode) (rest : Plan), s.blockMoves = true → s.plan = .setMode m :: rest →
    ∃ t, step s = .next t ∧ t.mode = m ∧ t.now = s.now + freeDelay s.draws ∧ s.now ≤ t.now ∧
      SameBlock { s.headTaken rest with mode := m, now := t.now } t ∧ (s.peer.fault = none → t.peer = s.peer)) ∧
  (∀ (c : Config.Params) (i : Instr) (p : Plan) (m : Mode), expand c i = some p → .setMode m ∈ p →
    i = .init ∧ (m = .boot8 ∨ m = .ready))

/-- R111: the sequencer's step performs the head action and nothing else, its event at the time before the advance; it is
never blocked, so a plan runs to its end. Whose turn it is, the schedule after it, and that the block runs on when nothing
is scheduled, are the model's choice (log entry 7). -/
def Obligations.SequencerStep : Prop :=
  (∀ (s : State) (a : Action) (rest : Plan), s.blockMoves = true → s.plan = a :: rest →
    ∃ t, step s = .next t ∧ t.schedule = s.turnTaken ∧ t.plan = rest ∧ (rest = [] → t.busy = false) ∧ (rest ≠ [] → t.busy = s.busy) ∧
      t.trace = s.trace ++ a.event.toList.map (fun ev => (s.now, ev)) ∧
      s.now + (match a with | .wait d => d | _ => 0) ≤ t.now) ∧
  (∀ s : State, s.schedule = [] → s.plan ≠ [] →
    ∃ t : State, core.run s.plan.length s = .next t ∧ t.plan = [] ∧ t.busy = false)

/-- R60, R251: a plan run to its end adds exactly its line events to the trace, in plan order, takes at least the sum of
its waits, and leaves the recorded violations as they were. That the block runs on when nothing is scheduled is the
model's choice (log entry 7). -/
def Obligations.PlanRunAddsItsEvents : Prop :=
  ∀ s : State, s.schedule = [] →
    ∃ t : State, core.run s.plan.length s = .next t ∧
      t.trace.map Prod.snd = s.trace.map Prod.snd ++ s.plan.filterMap Action.event ∧
      s.now + (s.plan.map Action.bound).sum ≤ t.now ∧ t.cv = s.cv ∧ t.cause = s.cause ∧ t.cfg = s.cfg

/-- R108, R113: the fifteen actions of a BYTE, its nibbles as numbers, its minimum duration, and its edge times from `t0`
with the default parameters and minimum draws. -/
def Obligations.ByteActions : Prop :=
  ∀ (c : Config.Params) (r : Bool) (b : Byte),
    bytePlan c r b =
      [.setRs r, .wait c.tRs,
       .setData (BitVec.ofNat 4 (b.toNat / 16)), .wait c.tPre, .setE false, .wait c.tEl, .setE true, .wait c.tEh,
       .setData (BitVec.ofNat 4 (b.toNat % 16)), .wait c.tPre, .setE false, .wait c.tEl, .setE true, .wait c.tEh,
       .wait c.tExec] ∧
    Plan.minDuration (bytePlan c r b) = c.tRs + 2 * (c.tPre + c.tEl + c.tEh) + c.tExec ∧
    ∀ t0 : Nat, Plan.timeline t0 (bytePlan Config.defaults r b) =
      [(t0, .rs r), (t0 + 5, .data (hiNibble b)), (t0 + 15, .e false), (t0 + 115, .e true),
       (t0 + 215, .data (loNibble b)), (t0 + 225, .e false), (t0 + 325, .e true)]

/-- R109: in every request's plan each SetData is followed at once by one strobe and each strobe is preceded by one
SetData, every SetE is an edge with E at 1 before and after, and a peer latching on either edge samples the same: the
nibbles the request stands for, high before low, each under the RS of its byte. -/
def Obligations.RequestsAreFramed : Prop :=
  ∀ (c : Config.Params) (i : Instr) (p : Plan), expand c i = some p →
    Plan.framed c p = true ∧ Plan.strobeOk true p = true ∧ Plan.modeOk .ready p = true ∧
    ∀ (edge : Config.Edge) (d : Nibble) (r : Bool), Plan.latched edge d r true p = requestLatches i

/-! ### INIT -/

/-- R121, R123: INIT's plan step by step, its 93 actions, its 12 strobes and its minimum duration. -/
def Obligations.InitActions : Prop :=
  ∀ c : Config.Params,
    initPlan c =
      ([.setMode .boot8, .setRs false, .wait c.tPowerOn] : Plan)
      ++ (nibblePlan c 0x3 ++ ([.wait c.tBoot] : Plan)) ++ (nibblePlan c 0x3 ++ ([.wait c.tBoot] : Plan))
      ++ (nibblePlan c 0x3 ++ ([.wait c.tBoot] : Plan)) ++ (nibblePlan c 0x2 ++ ([.wait c.tBoot] : Plan))
      ++ ([.setMode .ready] : Plan)
      ++ bytePlan c false 0x28 ++ bytePlan c false 0x06 ++ bytePlan c false 0x0C
      ++ (bytePlan c false 0x01 ++ ([.wait c.tClr] : Plan)) ∧
    (initPlan c).length = 93 ∧ Plan.strobes (initPlan c) = 12 ∧
    Plan.minDuration (initPlan c) =
      c.tPowerOn + 4 * (c.tPre + c.tEl + c.tEh + c.tBoot)
        + 4 * (c.tRs + 2 * (c.tPre + c.tEl + c.tEh) + c.tExec) + c.tClr

/-- R123, R124: an accepted INIT, run to its end, leaves the block READY and idle, with E at 1 and RS at 0, and with the
default parameters has taken at least 45,540 µs. That the block runs on when nothing is scheduled is the model's choice
(log entry 7). -/
def Obligations.InitRunsToReady : Prop :=
  ∀ s : State, s.busy = false → s.schedule = [] →
    ∃ t u : State, exec .init s = .next t ∧ core.run 93 t = .next u ∧ u.mode = .ready ∧ u.busy = false ∧ u.plan = [] ∧
      u.e = true ∧ u.rs = false ∧ u.data = 0x1 ∧ (s.cfg = Config.defaults → s.now + 45540 ≤ u.now)

/-- R198: whatever the peer's interface state is when INIT's plan is loaded, on either edge, with any timing and any free
value, the peer is in `InitDone` when the plan has run, or has set its fault. (a) From 8-bit mode, with the timing check
off, it sets no fault, whatever the undriven low nibbles are. That the block runs on when nothing is scheduled is the
model's choice (log entry 7). -/
def Obligations.InitBringsPeerToInitDone : Prop :=
  ∀ s : State, s.schedule = [] → s.plan = initPlan s.cfg → s.e = true → s.peer.lastE = true → s.peer.fault = none →
    ∃ t : State, core.run 93 s = .next t ∧ (t.peer.fault = none → t.peer.initDone) ∧
      (s.peer.ifmode = .eight → s.cfg.peerTiming = false → t.peer.initDone)

/-- R122, row by row. An accepted INIT is in `S_PWR`, MODE being as it was until `SetMode(BOOT8)`. With any non-empty tail
of a state's segment left, and the later segments, the machine is in that state; if it meets the invariant, BUSY is 1, MODE
is the state's once INIT's first action is performed, and the block's step leads to the next state exactly when it performs
the segment's last action. Idle, it is in `S_UNINIT` or `S_READY` by its mode, and a reset leads to `S_UNINIT` from
anywhere. In the invariant a running INIT is in one of the busy states. That another request's plan is in none of the
states is the model's reading (log entry 17). -/
def Obligations.InitStateMachine : Prop :=
  (∀ s : State, s.busy = false →
    ∃ t, exec .init s = .next t ∧ t.initState = some .pwr ∧ t.busy = true ∧ t.mode = s.mode) ∧
  (∀ (before after : List InitState) (q : InitState) (passed left : Plan) (a : Action) (s : State),
    initOrder = before ++ q :: after → initSegment s.cfg q = passed ++ a :: left →
    s.plan = a :: left ++ after.flatMap (initSegment s.cfg) → s.initRun = true →
    s.initState = some q ∧
    (s.Inv → s.busy = true ∧
      (q ≠ .pwr ∨ passed ≠ [] →
        s.mode = if q ∈ [.pwr, .boot1, .boot2, .boot3, .switch4] then .boot8 else .ready) ∧
      (s.blockMoves = true →
        ∃ t, step s = .next t ∧ t.initState = if left = [] then (after ++ [InitState.ready]).head? else some q))) ∧
  (∀ s : State, s.Inv → s.initRun = true → ∃ q ∈ initOrder, s.initState = some q) ∧
  (∀ s : State, s.plan = [] → s.mode = .uninit → s.initState = some .uninit) ∧
  (∀ s : State, s.plan = [] → s.mode = .ready → s.initState = some .ready) ∧
  (∀ (s : State) (rest : List Turn), s.schedule = .reset :: rest →
    ∃ t, step s = .next t ∧ t.initState = some .uninit ∧ t.mode = .uninit ∧ t.busy = false) ∧
  (∀ (i : Instr) (s : State) (p : Plan), expand s.cfg i = some p → i ≠ .init → p ≠ [] → s.busy = false →
    ∃ t, exec i s = .next t ∧ t.initState = none)

/-! ### The requests -/

/-- R110, R120: INIT is accepted with INIT's plan; unless MODE is UNINIT, REPEATED_INIT (code 3) is recorded. -/
def Obligations.InitIsAccepted : Prop :=
  ∀ s : State, s.busy = false →
    ∃ t, exec .init s = .next t ∧ Accepted s true (if s.mode = .uninit then none else some 3) (initPlan s.cfg) t

/-- R110, R140, R141: WRITE_CMD sends its byte with RS = 0, WRITE_CHAR with RS = 1; in mode UNINIT REQ_BEFORE_INIT (code
2) is recorded and the plan is the same. -/
def Obligations.WritesAreAccepted : Prop :=
  ∀ (b : Byte) (s : State), s.busy = false →
    (∃ t, exec (.writeCmd b) s = .next t ∧
      Accepted s false (if s.mode = .uninit then some 2 else none) (bytePlan s.cfg false b) t) ∧
    (∃ t, exec (.writeChar b) s = .next t ∧
      Accepted s false (if s.mode = .uninit then some 2 else none) (bytePlan s.cfg true b) t)

/-- R110, R160, R161: CLEAR sends 0x01 and HOME 0x02, each with the extra settle. -/
def Obligations.ClearAndHomeAreAccepted : Prop :=
  ∀ s : State, s.busy = false →
    (∃ t, exec .clear s = .next t ∧
      Accepted s false (if s.mode = .uninit then some 2 else none) (bytePlan s.cfg false 0x01 ++ [.wait s.cfg.tClr]) t) ∧
    (∃ t, exec .home s = .next t ∧
      Accepted s false (if s.mode = .uninit then some 2 else none) (bytePlan s.cfg false 0x02 ++ [.wait s.cfg.tClr]) t)

/-- R110, R162: SET_CURSOR sends 0x80 + column or 0xC0 + column, modulo 256, for rows 0 and 1; for any other row nothing,
and BUSY stays 0. -/
def Obligations.SetCursorIsAccepted : Prop :=
  ∀ (c r : Byte) (s : State), s.busy = false →
    ∃ t, exec (.setCursor c r) s = .next t ∧
      Accepted s false (if s.mode = .uninit then some 2 else none)
        (if r.toNat = 0 then bytePlan s.cfg false (BitVec.ofNat 8 ((128 + c.toNat) % 256))
         else if r.toNat = 1 then bytePlan s.cfg false (BitVec.ofNat 8 ((192 + c.toNat) % 256)) else []) t

/-- R110, R163: GOTO_ADDR sends 0x80 + address, modulo 256, whatever the address; its plan is that of SET_CURSOR in row 0. -/
def Obligations.GotoAddrIsAccepted : Prop :=
  ∀ (a : Byte) (s : State),
    (s.busy = false → ∃ t, exec (.gotoAddr a) s = .next t ∧
      Accepted s false (if s.mode = .uninit then some 2 else none)
        (bytePlan s.cfg false (BitVec.ofNat 8 ((128 + a.toNat) % 256))) t) ∧
    expand s.cfg (.gotoAddr a) = expand s.cfg (.setCursor a 0)

/-- R83: `ddram_cmd`, and where its byte is a set-DDRAM byte for the operand and where it is some other command. -/
def Obligations.DdramCommandByte : Prop :=
  (∀ base v : Byte, (ddramCmd base v).toNat = (base.toNat + v.toNat) % 256) ∧
  (∀ v : Byte, v.toNat ≤ 0x7F → ddramCmd 0x80 v = 0x80 ||| v) ∧
  (∀ v : Byte, v.toNat ≤ 0x3F → ddramCmd 0xC0 v = 0xC0 ||| v) ∧
  (∀ v : Byte, 0x80 ≤ v.toNat → (ddramCmd 0x80 v).toNat = v.toNat - 0x80) ∧
  (∀ v : Byte, 0x40 ≤ v.toNat → (ddramCmd 0xC0 v).toNat = v.toNat - 0x40)

/-- R78: a byte is sent as `b[7:4]`, then `b[3:0]`, whichever edge the peer latches on. -/
def Obligations.NibbleSplit : Prop :=
  ∀ (c : Config.Params) (r r' : Bool) (b : Byte) (d : Nibble) (edge : Config.Edge),
    Plan.latched edge d r' true (bytePlan c r b) =
      [(r, BitVec.ofNat 4 (b.toNat / 16)), (r, BitVec.ofNat 4 (b.toNat % 16))]

/-- R77, R142: string sends its bytes up to the first sentinel, one WRITE_CHAR each. -/
def Obligations.StringExpansion : Prop :=
  ∀ (sentinel : Byte) (bytes : List Byte),
    expandString sentinel bytes = (bytes.takeWhile (fun b => b != sentinel)).map Instr.writeChar

/-- R76, R77: the words of every line of the assembler, the refusal of an operand that does not fit, the lines of a string,
and a line with nothing or only a comment, as a term and as text. R76 gives no meaning to a line with nothing on it and no
scanner: that such a line stands for no word, and the text form, are PRESUMED (log entry 13). -/
def Obligations.AssemblerWords : Prop :=
  ∀ (sentinel : Byte) (n m : Nat) (bytes : List Byte) (comment : List Char),
    assemble sentinel .initLine = some [0x00010000] ∧
    assemble sentinel .clearLine = some [0x00040000] ∧
    assemble sentinel .homeLine = some [0x00050000] ∧
    assemble sentinel (.cmdLine n) = (if n < 256 then some [BitVec.ofNat 32 (0x20000 + n)] else none) ∧
    assemble sentinel (.charLine n) = (if n < 256 then some [BitVec.ofNat 32 (0x30000 + n)] else none) ∧
    assemble sentinel (.gotoLine n) = (if n < 256 then some [BitVec.ofNat 32 (0x70000 + n)] else none) ∧
    assemble sentinel (.setcurLine n m) =
      (if n < 256 ∧ m < 256 then some [BitVec.ofNat 32 (0x60000 + 256 * m + n)] else none) ∧
    assemble sentinel (.wordLine n) = (if n < 2 ^ 32 then some [BitVec.ofNat 32 n] else none) ∧
    assemble sentinel (.stringLine bytes) =
      some ((bytes.takeWhile (fun b => b != sentinel)).map fun b => BitVec.ofNat 32 (0x30000 + b.toNat)) ∧
    assemble sentinel .emptyLine = some [] ∧
    assembleText sentinel [] = some [] ∧
    assembleText sentinel (';' :: comment) = some []

/-! ### STATUS, violations, the register window -/

/-- R29: STATUS field by field, a read that changes nothing but what the host has read, an ignored write, the reset
value, and the value after a clean INIT. That an access is a step of a schedule is log entries 7 and 20, the word kept of
a read is log entry 8, and a peer that has a fault drifts in these steps as in every step (log entry 9). -/
def Obligations.StatusRegister : Prop :=
  (∀ s : State,
    s.status.toNat % 2 = (if s.busy then 1 else 0) ∧
    s.status.toNat / 2 % 4 = (match s.mode with | .uninit => 0 | .boot8 => 1 | .ready => 2) ∧
    s.status.toNat / 8 % 2 = (if s.cv then 1 else 0) ∧
    s.status.toNat / 16 % 8 = s.cause.toNat ∧
    s.status.toNat / 128 = 0) ∧
  (∀ (s : State) (rest : List Turn), s.schedule = .host (.access ⟨4, 4, none⟩) :: rest →
    step s = .next ((s.setSchedule rest).setRdata (some s.status)).drift) ∧
  (∀ (s : State) (w : Word) (rest : List Turn), s.schedule = .host (.access ⟨4, 4, some w⟩) :: rest →
    step s = .next (s.setSchedule rest).drift) ∧
  State.reset.status = 0x00000000 ∧
  (∀ s : State, s.busy = false → s.mode = .ready → s.cv = false → s.cause = 0 → s.status = 0x00000004)

/-- R28, R53: a read of REQ returns 0 with no side effect and is never held. That it is a step of a schedule is log entries
7 and 20, the word kept of it is log entry 8, and a peer that has a fault drifts in it as in every step (log entry 9). -/
def Obligations.ReqReadsZero : Prop :=
  ∀ (s : State) (rest : List Turn), s.schedule = .host (.access ⟨0, 4, none⟩) :: rest →
    step s = .next ((s.setSchedule rest).setRdata (some 0x00000000)).drift

/-- R51: any access but one 32-bit access at offset 0x0 or 0x4 is refused; those four are not. -/
def Obligations.OtherAccessesAreRefused : Prop :=
  ∀ (s : State) (a : Access) (rest : List Turn), s.schedule = .host (.access a) :: rest →
    (¬ (a.bytes = 4 ∧ (a.offset = 0 ∨ a.offset = 4)) → step s = .refused (.hostAccess a.offset a.bytes)) ∧
    (a.bytes = 4 → (a.offset = 0 ∨ a.offset = 4) → ∃ t, step s = .next t)

/-- R220, R51: a step answers a next state unless the host asks for an access the window does not have; every
instruction's `exec` answers a next state in every state. -/
def Obligations.NothingStopsTheMachine : Prop :=
  (∀ s : State, (∃ t, step s = .next t) ↔ s.asksBadAccess = false) ∧
  (∀ (i : Instr) (s : State), ∃ t, exec i s = .next t)

/-- R27: `violate` keeps the first cause and sets CV; nothing but `violate` and reset changes them, in any step; and a
violation changes no line and no plan. -/
def Obligations.ViolationRecord : Prop :=
  (∀ (s : State) (c : Violation),
    (s.violate c).cv = true ∧ (s.violate c).cause = (if s.cv then s.cause else c.code) ∧
    (s.violate c).data = s.data ∧ (s.violate c).rs = s.rs ∧ (s.violate c).e = s.e ∧ (s.violate c).plan = s.plan) ∧
  (∀ s t : State, step s = .next t → s.noReset = true →
    (t.cv = s.cv ∧ t.cause = s.cause) ∨ ∃ c, t.cv = (s.violate c).cv ∧ t.cause = (s.violate c).cause) ∧
  (∀ s t : State, step s = .next t → s.noReset = true → s.cv = true → t.cv = true ∧ t.cause = s.cause) ∧
  State.reset.cv = false ∧ State.reset.cause = 0

/-- R24, R105: MODE changes only by a SetMode at the head of the plan or by a reset, and never returns to UNINIT
otherwise in a state that meets the invariant. -/
def Obligations.ModeChanges : Prop :=
  ∀ s t : State, step s = .next t → s.noReset = true →
    (t.mode = s.mode ∨ ∃ m rest, s.plan = .setMode m :: rest ∧ t.mode = m) ∧
    (s.Inv → s.mode ≠ .uninit → t.mode ≠ .uninit)

/-- R63: only the block drives DATA, RS and E: without a reset, a line changes only in a step of the block whose action
drives it, to the level that action gives, and the action is then done. Which steps are the block's is the model's choice
(log entry 7). -/
def Obligations.OnlyTheBlockDrivesTheLines : Prop :=
  ∀ s t : State, step s = .next t → s.noReset = true →
    (t.data ≠ s.data → s.blockMoves = true ∧ s.plan = .setData t.data :: t.plan) ∧
    (t.rs ≠ s.rs → s.blockMoves = true ∧ s.plan = .setRs t.rs :: t.plan) ∧
    (t.e ≠ s.e → s.blockMoves = true ∧ s.plan = .setE t.e :: t.plan)

/-! ### Reset and idling -/

/-- R34: the reset table. -/
def Obligations.ResetTable : Prop :=
  State.reset.data = 0x0 ∧ State.reset.rs = false ∧ State.reset.e = true ∧ State.reset.mode = .uninit ∧
  State.reset.busy = false ∧ State.reset.plan = [] ∧ State.reset.cv = false ∧ State.reset.cause = 0 ∧
  State.reset.status = 0x00000000 ∧ State.reset.now = 0 ∧ State.reset.trace = []

/-- R240: a reset, at any point, gives every item of the block its reset value; it does not reset the LCD peer, whose time
goes on (log entry 6) and which, where `E` was at 1 already, sees nothing of it. The schedule is log entry 7. -/
def Obligations.ResetEvent : Prop :=
  ∀ (s : State) (rest : List Turn), s.schedule = .reset :: rest →
    ∃ t, step s = .next t ∧ t.data = 0x0 ∧ t.rs = false ∧ t.e = true ∧ t.mode = .uninit ∧ t.busy = false ∧
      t.plan = [] ∧ t.cv = false ∧ t.cause = 0 ∧ t.now = 0 ∧ t.trace = [] ∧ t.status = 0 ∧ t.initRun = false ∧
      t.schedule = rest ∧ t.rdata = s.rdata ∧ t.cfg = s.cfg ∧ t.peerTime = s.peerTime ∧
      (s.peer.fault = none → s.peer.lastE = true → t.peer = s.peer)

/-- R181, R233, R240: after a power cycle nothing of the block or of the peer survives: the block has its reset values,
LCD time starts at 0, and the peer is at its power-on state: `Reset8`, or with `Any` only `lastE`, `fault` and
`busyUntil` are known. That both are powered at one moment is log entry 14, and the schedule is log entry 7. -/
def Obligations.PowerCycle : Prop :=
  ∀ (s : State) (rest : List Turn), s.schedule = .powerCycle :: rest →
    ∃ t, step s = .next t ∧ t.data = 0x0 ∧ t.rs = false ∧ t.e = true ∧ t.mode = .uninit ∧ t.busy = false ∧
      t.plan = [] ∧ t.cv = false ∧ t.cause = 0 ∧ t.now = 0 ∧ t.trace = [] ∧ t.initRun = false ∧ t.peerTime = 0 ∧
      t.cfg = s.cfg ∧
      t.schedule = rest ∧ t.peer.lastE = true ∧ t.peer.fault = none ∧ t.peer.busyUntil = 0 ∧
      (s.cfg.peerPowerOn = .reset8 →
        t.peer.ifmode = .eight ∧ t.peer.phase = .hi ∧ t.peer.lines2 = false ∧ t.peer.font10 = false ∧
        t.peer.dispOn = false ∧ t.peer.cursorOn = false ∧ t.peer.blinkOn = false ∧ t.peer.id = true ∧
        t.peer.sh = false ∧ t.peer.ac = 0 ∧ ∀ a, Memory.read t.peer.ddram a = 0x20)

/-- R241 (a), R182 to R185: a reset while the peer sees `E` at 0 is a rising edge. A peer that latches on falling edges
only sees the level. One that latches on rising edges latches at the reset, DATA and RS each at its old or its reset level
(log entry 12): a byte with a free low nibble in 8-bit mode, a high nibble in phase HI, and in phase LO the byte with the
pending nibble, or RS_CHANGED where RS differs; with the timing check on and before 15000 µs of LCD time it is OVERRUN
instead (log entries 6, 18, 21). Where a byte is executed, it is so on the block's reset state. That a latch in 8-bit mode
leaves `phase` as it is where it is LO is log entry 22. The schedule is log entry 7. -/
def Obligations.ResetIsARisingEdge : Prop :=
  ∀ (s : State) (rest : List Turn), s.schedule = .reset :: rest → s.peer.lastE = false → s.peer.fault = none →
    (s.cfg.latchEdge = .falling → ∃ t, step s = .next t ∧ t.peer = { s.peer with lastE := true }) ∧
    (s.cfg.latchEdge = .rising → s.cfg.peerTiming = true → s.peerTime < 15000 →
      ∃ t, step s = .next t ∧ t.peer.fault = some .overrun) ∧
    (s.cfg.latchEdge = .rising → s.cfg.peerTiming = false ∨ 15000 ≤ s.peerTime →
      ∃ (d : Nibble) (r : Bool), (d = s.data ∨ d = 0x0) ∧ (r = s.rs ∨ r = false) ∧
        (s.peer.ifmode = .eight →
          ∃ u, step s = exec (decodeTransfer r (d ++ freeNibble (s.draws + 1))) u ∧
            SameBlock (s.setSchedule rest).resetBlock u ∧ u.peer = { s.peer with lastE := true }) ∧
        (s.peer.ifmode = .four → s.peer.phase = .hi →
          ∃ t, step s = .next t ∧ SameBlock (s.setSchedule rest).resetBlock t ∧
            t.peer = { s.peer with lastE := true, hiNib := d, hiRS := r, phase := .lo }) ∧
        (s.peer.ifmode = .four → s.peer.phase = .lo → r ≠ s.peer.hiRS →
          ∃ t, step s = .next t ∧ t.peer.fault = some .rsChanged) ∧
        (s.peer.ifmode = .four → s.peer.phase = .lo → r = s.peer.hiRS →
          ∃ u, step s = exec (decodeTransfer r (s.peer.hiNib ++ d)) u ∧
            SameBlock (s.setSchedule rest).resetBlock u ∧ u.peer = { s.peer with lastE := true, phase := .hi }))

/-- R112 (c): the host idles: any time passes and nothing else changes, on a turn of its own while BUSY = 0 and, which is
the model's choice (log entry 7), when nothing is scheduled and there is no plan. The form of the time is log entry 2. -/
def Obligations.IdleHoldsTheLines : Prop :=
  (∀ (s : State) (rest : List Turn), s.schedule = .host .idle :: rest → s.busy = false →
    ∃ t, step s = .next t ∧ t.now = s.now + freeDelay s.draws ∧ s.now ≤ t.now ∧
      SameBlock ((s.setSchedule rest).setNow t.now) t ∧ (s.peer.fault = none → t.peer = s.peer)) ∧
  (∀ s : State, s.schedule = [] → s.plan = [] →
    ∃ t, step s = .next t ∧ t.now = s.now + freeDelay s.draws ∧ s.now ≤ t.now ∧
      SameBlock (s.setNow t.now) t ∧ (s.peer.fault = none → t.peer = s.peer))

/-! ### The reference peer -/

/-- R183: a latch in 8-bit mode makes a byte of the sampled nibble and a free low nibble, and executes it. The form of the
free value is log entry 2, the turn and the schedule are the model's choice (log entry 7), and the order of the latch and
the step's time is log entry 19. That the latch leaves `phase` as it is where it is LO is the model's choice (log entry
22). -/
def Obligations.EightBitLatch : Prop :=
  ∀ (s : State) (v : Bool) (rest : Plan), s.LatchesNext v rest → s.peer.ifmode = .eight →
    step s = afterTransfer (exec (decodeTransfer s.rs (s.data ++ freeNibble s.draws))
      { s.headTaken rest with
        e := v, trace := s.trace ++ [(s.now, .e v)]
        draws := s.draws + 1
        peer := { s.peer with lastE := v } })

/-- R184, R185: the first latch in 4-bit mode keeps the high nibble and its RS and executes nothing; the second executes
the byte, or, if RS has changed, is the fault RS_CHANGED. The turn is the model's choice (log entry 7), and the order of the
latch and the step's time is log entry 19. -/
def Obligations.FourBitLatch : Prop :=
  ∀ (s : State) (v : Bool) (rest : Plan), s.LatchesNext v rest → s.peer.ifmode = .four →
    (s.peer.phase = .hi → ∃ t, step s = .next t ∧
      t.peer = { s.peer with lastE := v, hiNib := s.data, hiRS := s.rs, phase := .lo }) ∧
    (s.peer.phase = .lo → s.rs ≠ s.peer.hiRS → ∃ t, step s = .next t ∧ t.peer.fault = some .rsChanged) ∧
    (s.peer.phase = .lo → s.rs = s.peer.hiRS →
      ∃ u, step s = afterTransfer (exec (decodeTransfer s.rs (s.peer.hiNib ++ s.data)) u) ∧
        u.peer = { s.peer with lastE := v, phase := .hi } ∧ u.now = s.now ∧ u.cfg = s.cfg)

/-- R187: clear display. The busy time is R186's and R197's, in the LCD time of log entry 6. -/
def Obligations.ClearDisplayResult : Prop :=
  ∀ s : State, s.PeerFree →
    ∃ m : Memory, (∀ a, Memory.read m a = 0x20) ∧
      exec .lcdClearDisplay s = .next (s.setPeer { s.peer with
        ddram := m, ac := 0x00, id := true, busyUntil := s.peerTime + 1520 })

/-- R189: return home, for either value of the ignored bit; DDRAM is unchanged. The busy time is R186's and R197's, in
the LCD time of log entry 6. -/
def Obligations.ReturnHomeResult : Prop :=
  ∀ (x : Bool) (s : State), s.PeerFree →
    exec (.lcdReturnHome x) s = .next (s.setPeer { s.peer with ac := 0x00, busyUntil := s.peerTime + 1520 })

/-- R190, R191: entry mode set and display control. The busy time is R186's and R197's, in the LCD time of log entry
6. -/
def Obligations.EntryModeAndDisplayControl : Prop :=
  (∀ (i sh : Bool) (s : State), s.PeerFree →
    exec (.lcdEntryModeSet i sh) s = .next (s.setPeer { s.peer with
      id := i, sh := sh, busyUntil := s.peerTime + 37 })) ∧
  (∀ (d c b : Bool) (s : State), s.PeerFree →
    exec (.lcdDisplayControl d c b) s = .next (s.setPeer { s.peer with
      dispOn := d, cursorOn := c, blinkOn := b, busyUntil := s.peerTime + 37 }))

/-- R192, R197: function set; the first in 8-bit mode since power-on takes 4100 µs (log entry 5). The busy time is in the
LCD time of log entry 6. -/
def Obligations.FunctionSetResult : Prop :=
  ∀ (l n f : Bool) (x : BitVec 2) (s : State), s.PeerFree →
    exec (.lcdFunctionSet l n f x) s = .next (s.setPeer { s.peer with
      ifmode := if l then .eight else .four
      phase := .hi, lines2 := n, font10 := f
      fsSeen := s.peer.fsSeen || s.peer.ifmode == .eight
      busyUntil := s.peerTime + if s.peer.ifmode = .eight ∧ s.peer.fsSeen = false then 4100 else 37 })

/-- R193, R196: set DDRAM address; an address that is not valid for `lines2` is the fault BAD_ADDRESS. The busy time is
R186's and R197's, in the LCD time of log entry 6. -/
def Obligations.SetDdramResult : Prop :=
  ∀ (a : BitVec 7) (s : State), s.PeerFree →
    ((if s.peer.lines2 then a.toNat ≤ 0x27 ∨ (0x40 ≤ a.toNat ∧ a.toNat ≤ 0x67) else a.toNat ≤ 0x4F) →
      exec (.lcdSetDdram a) s = .next (s.setPeer { s.peer with ac := a, busyUntil := s.peerTime + 37 })) ∧
    (¬ (if s.peer.lines2 then a.toNat ≤ 0x27 ∨ (0x40 ≤ a.toNat ∧ a.toNat ≤ 0x67) else a.toNat ≤ 0x4F) →
      ∃ t, exec (.lcdSetDdram a) s = .next t ∧ t.peer.fault = some .badAddress)

/-- R195: a data byte is stored at the cursor address, which then steps; every other cell keeps its byte. With display
shift on the byte is UNMODELLED; an invalid cursor address is BAD_ADDRESS. The busy time is R186's and R197's, in the LCD
time of log entry 6. -/
def Obligations.WriteDataResult : Prop :=
  ∀ (d : Byte) (s : State), s.PeerFree →
    (s.peer.sh = false → validAddress s.peer.lines2 s.peer.ac = true → Memory.wf s.peer.ddram = true →
      ∃ m : Memory, Memory.wf m = true ∧ Memory.read m s.peer.ac.toNat = d ∧
        (∀ a, a ≠ s.peer.ac.toNat → Memory.read m a = Memory.read s.peer.ddram a) ∧
        exec (.lcdWriteData d) s = .next (s.setPeer { s.peer with
          ddram := m, ac := stepAddress s.peer.lines2 s.peer.id s.peer.ac, busyUntil := s.peerTime + 37 })) ∧
    (s.peer.sh = true → ∃ t, exec (.lcdWriteData d) s = .next t ∧ t.peer.fault = some (.unmodelled d)) ∧
    (s.peer.sh = false → validAddress s.peer.lines2 s.peer.ac = false →
      ∃ t, exec (.lcdWriteData d) s = .next t ∧ t.peer.fault = some .badAddress)

/-- R188: the refused bytes: 0x00, the shift group and the CGRAM group set the fault UNMODELLED with their byte. -/
def Obligations.RefusedBytesResult : Prop :=
  ∀ s : State, s.PeerFree →
    (∃ t, exec .lcdNone s = .next t ∧ t.peer.fault = some (.unmodelled 0x00) ∧ SameBlock s t) ∧
    (∀ (sc r : Bool) (x : BitVec 2), ∃ t, exec (.lcdShift sc r x) s = .next t ∧
      t.peer.fault = some (.unmodelled (BitVec.ofNat 8
        (16 + 8 * sc.toNat + 4 * r.toNat + x.toNat))) ∧ SameBlock s t) ∧
    (∀ a : BitVec 6, ∃ t, exec (.lcdSetCgram a) s = .next t ∧
      t.peer.fault = some (.unmodelled (BitVec.ofNat 8 (64 + a.toNat))) ∧ SameBlock s t)

/-- R196: the valid addresses and the address step, in numbers; from a valid address the step stays valid, and a step
forward and a step back undo each other. -/
def Obligations.AddressStep : Prop :=
  (∀ a : BitVec 7, validAddress true a = true ↔ (a.toNat ≤ 0x27 ∨ (0x40 ≤ a.toNat ∧ a.toNat ≤ 0x67))) ∧
  (∀ a : BitVec 7, validAddress false a = true ↔ a.toNat ≤ 0x4F) ∧
  (∀ a : BitVec 7, (stepAddress true true a).toNat =
    if a.toNat = 0x27 then 0x40 else if a.toNat = 0x67 then 0x00 else (a.toNat + 1) % 128) ∧
  (∀ a : BitVec 7, (stepAddress true false a).toNat =
    if a.toNat = 0x40 then 0x27 else if a.toNat = 0x00 then 0x67 else (a.toNat + 127) % 128) ∧
  (∀ a : BitVec 7, (stepAddress false true a).toNat = if a.toNat = 0x4F then 0x00 else (a.toNat + 1) % 128) ∧
  (∀ a : BitVec 7, (stepAddress false false a).toNat = if a.toNat = 0x00 then 0x4F else (a.toNat + 127) % 128) ∧
  (∀ (l inc : Bool) (a : BitVec 7), validAddress l a = true →
    validAddress l (stepAddress l inc a) = true ∧ stepAddress l (!inc) (stepAddress l inc a) = a)

/-- R186, R197: with the timing check on, every transfer before the peer's busy time is over is OVERRUN, and so is every
latch before 15000 µs, times being LCD time (log entry 6). That the second is made at every latch is log entry 18, and
that it comes before anything else a latch may find is the model's choice (log entry 21). -/
def Obligations.OverrunCheck : Prop :=
  (∀ (i : Instr) (s : State), expand s.cfg i = none → s.cfg.peerTiming = true → s.peerTime < s.peer.busyUntil →
    s.peer.fault = none → ∃ t, exec i s = .next t ∧ t.peer.fault = some .overrun ∧ SameBlock s t) ∧
  (∀ (s : State) (v : Bool) (rest : Plan), s.blockMoves = true → s.plan = .setE v :: rest →
    latchesOn s.cfg.latchEdge s.peer.lastE v = true → s.cfg.peerTiming = true → s.peerTime < 15000 →
    s.peer.fault = none → ∃ t, step s = .next t ∧ t.peer.fault = some .overrun)

/-- R180, I-28: a fault of the peer stays until power is cycled, and in every step until then, as in every instruction, the
rest of the peer is a free value, already in the step that sets the fault. That the same fault stays is the model's
reading (log entry 9), and the form of the free value is log entry 2. -/
def Obligations.PeerFaultIsSticky : Prop :=
  (∀ (s t : State) (f : PeerFault), step s = .next t → s.peer.fault = some f →
    (∀ rest, s.schedule ≠ .powerCycle :: rest) → ∃ n, t.peer = { Peer.any n with fault := some f }) ∧
  (∀ (s t : State) (f : PeerFault), step s = .next t → t.peer.fault = some f →
    ∃ n, t.peer = { Peer.any n with fault := some f }) ∧
  (∀ (i : Instr) (s : State) (f : PeerFault), s.peer.fault = some f →
    ∃ t n, exec i s = .next t ∧ t.peer = { Peer.any n with fault := some f })

/-- R54, R180: a transfer changes nothing of the block, and the peer's view of E, its pending nibble and its phase (but
for a function set) stay; only clear display and write data change a DDRAM cell, write data only the one at the cursor.
Where the transfer sets the peer's fault, its other fields are free. -/
def Obligations.TransferFrame : Prop :=
  ∀ (i : Instr) (s : State), expand s.cfg i = none →
    ∃ t, exec i s = .next t ∧ SameBlock s t ∧
      (t.peer.fault = none →
        t.peer.lastE = s.peer.lastE ∧ t.peer.hiNib = s.peer.hiNib ∧ t.peer.hiRS = s.peer.hiRS ∧
        t.draws = s.draws ∧
        ((∀ l n f x, i ≠ .lcdFunctionSet l n f x) → t.peer.ifmode = s.peer.ifmode ∧ t.peer.phase = s.peer.phase ∧
          t.peer.lines2 = s.peer.lines2 ∧ t.peer.font10 = s.peer.font10 ∧ t.peer.fsSeen = s.peer.fsSeen) ∧
        ((∀ d c b, i ≠ .lcdDisplayControl d c b) → t.peer.dispOn = s.peer.dispOn ∧
          t.peer.cursorOn = s.peer.cursorOn ∧ t.peer.blinkOn = s.peer.blinkOn) ∧
        ((∀ k h, i ≠ .lcdEntryModeSet k h) → t.peer.sh = s.peer.sh ∧
          (i ≠ .lcdClearDisplay → t.peer.id = s.peer.id)) ∧
        ((i ≠ .lcdClearDisplay ∧ (∀ d, i ≠ .lcdWriteData d)) →
          ∀ a, Memory.read t.peer.ddram a = Memory.read s.peer.ddram a) ∧
        (∀ d, i = .lcdWriteData d →
          ∀ a, a ≠ s.peer.ac.toNat → Memory.read t.peer.ddram a = Memory.read s.peer.ddram a) ∧
        ((i ≠ .lcdClearDisplay ∧ (∀ x, i ≠ .lcdReturnHome x) ∧ (∀ a, i ≠ .lcdSetDdram a) ∧
          (∀ d, i ≠ .lcdWriteData d)) → t.peer.ac = s.peer.ac))

/-- R194, R195: on a 2-line display the character written with the cursor at a cell's address shows in that cell, and no
other cell changes. -/
def Obligations.WrittenCharacterShows : Prop :=
  ∀ (d : Byte) (row column : Nat) (s : State), s.PeerFree → s.peer.lines2 = true → s.peer.sh = false →
    Memory.wf s.peer.ddram = true → s.cfg.cols ≤ 40 → row < 2 → column < s.cfg.cols →
    s.peer.ac.toNat = (if row = 0 then 0x00 else 0x40) + column →
    ∃ t, exec (.lcdWriteData d) s = .next t ∧ t.visibleCell row column = some d ∧
      ∀ r c, r < 2 → c < s.cfg.cols → (r ≠ row ∨ c ≠ column) → t.visibleCell r c = s.visibleCell r c

/-! ### Invariants -/

/-- The invariant holds right after power-on, with the default parameters (R34, R181) and with any others, also for a peer
that powers on in any state. -/
def Obligations.PowerOnMeetsInvariant : Prop :=
  State.reset.Inv ∧ ∀ c : Config.Params, (State.powerOn c).Inv

/-- Every step from a state that meets the invariant, reachable or not, leads to one that meets it: BUSY is PLAN being
non-empty, every strobe is a falling and then a rising edge and leaves E at 1, MODE and CAUSE are legal, a running INIT
has a tail of its plan left and is in the mode R122 gives its state, the peer has seen the level of E, times never
decrease, and DDRAM is canonical. -/
def Obligations.StepKeepsInvariant : Prop :=
  ∀ s t : State, s.Inv → step s = .next t → t.Inv
end

