-- ==== Sys2Proof/Laws/Decode.lean ====
section
/-! SUPPORT. The four fields of a request word (30_encoding.md R70): of a word put together from them, as numbers, and
put together again. -/

namespace Sys2Proof

@[simp] theorem fieldRsvd_append (v : BitVec 12) (op : BitVec 4) (a1 a0 : Byte) :
    fieldRsvd (v ++ op ++ a1 ++ a0) = v := by
  unfold fieldRsvd
  ext i hi
  rw [BitVec.getElem_extractLsb', BitVec.getLsbD_append, if_neg (by omega), BitVec.getLsbD_append, if_neg (by omega),
    BitVec.getLsbD_append, if_neg (by omega), show 20 + i - 8 - 8 - 4 = i by omega, BitVec.getLsbD_eq_getElem]

@[simp] theorem fieldOp_append (v : BitVec 12) (op : BitVec 4) (a1 a0 : Byte) :
    fieldOp (v ++ op ++ a1 ++ a0) = op := by
  unfold fieldOp
  ext i hi
  rw [BitVec.getElem_extractLsb', BitVec.getLsbD_append, if_neg (by omega), BitVec.getLsbD_append, if_neg (by omega),
    BitVec.getLsbD_append, if_pos (by omega), show 16 + i - 8 - 8 = i by omega, BitVec.getLsbD_eq_getElem]

@[simp] theorem fieldArg1_append (v : BitVec 12) (op : BitVec 4) (a1 a0 : Byte) :
    fieldArg1 (v ++ op ++ a1 ++ a0) = a1 := by
  unfold fieldArg1
  ext i hi
  rw [BitVec.getElem_extractLsb', BitVec.getLsbD_append, if_neg (by omega), BitVec.getLsbD_append, if_pos (by omega),
    show 8 + i - 8 = i by omega, BitVec.getLsbD_eq_getElem]

@[simp] theorem fieldArg0_append (v : BitVec 12) (op : BitVec 4) (a1 a0 : Byte) :
    fieldArg0 (v ++ op ++ a1 ++ a0) = a0 := by
  unfold fieldArg0
  ext i hi
  rw [BitVec.getElem_extractLsb', Nat.zero_add, BitVec.getLsbD_append, if_pos hi, BitVec.getLsbD_eq_getElem]

/-- A word is its four fields. -/
theorem word_eq_fields (w : Word) : w = fieldRsvd w ++ fieldOp w ++ fieldArg1 w ++ fieldArg0 w := by
  apply BitVec.eq_of_getLsbD_eq
  intro i hi
  simp only [fieldRsvd, fieldOp, fieldArg1, fieldArg0, BitVec.getLsbD_append, BitVec.getLsbD_extractLsb']
  split
  · simp_all
  · split
    · simp_all
    · split
      · rename_i h
        simp only [h, decide_true, Bool.true_and]
        congr 1
        omega
      · simp only [show i - 8 - 8 - 4 < 12 by omega, decide_true, Bool.true_and]
        congr 1
        omega

theorem fieldRsvd_toNat (w : Word) : (fieldRsvd w).toNat = w.toNat / 2 ^ 20 := by
  simp only [fieldRsvd, BitVec.extractLsb'_toNat, Nat.shiftRight_eq_div_pow]
  omega

theorem fieldOp_toNat (w : Word) : (fieldOp w).toNat = w.toNat / 2 ^ 16 % 16 := by
  simp only [fieldOp, BitVec.extractLsb'_toNat, Nat.shiftRight_eq_div_pow]

theorem fieldArg1_toNat (w : Word) : (fieldArg1 w).toNat = w.toNat / 2 ^ 8 % 256 := by
  simp only [fieldArg1, BitVec.extractLsb'_toNat, Nat.shiftRight_eq_div_pow]

theorem fieldArg0_toNat (w : Word) : (fieldArg0 w).toNat = w.toNat % 256 := by
  simp only [fieldArg0, BitVec.extractLsb'_toNat, Nat.shiftRight_eq_div_pow, pow_zero, Nat.div_one]

end Sys2Proof
end

