-- ==== Sys2Proof/Laws/Memory.lean ====
section
/-! SUPPORT. DDRAM: a read after a write, and that every operation keeps the canonical form. -/

namespace Sys2Proof.Machine

@[simp] theorem Memory.read_nil (a : Nat) : Memory.read [] a = Memory.unlisted := rfl

@[simp] theorem Memory.wf_nil : Memory.wf [] = true := rfl

theorem Memory.wfFrom_mono {lo lo' : Nat} {m : Memory} (hle : lo' ≤ lo) (h : Memory.wfFrom lo m = true) :
    Memory.wfFrom lo' m = true := by
  cases m with
  | nil => rfl
  | cons c m =>
    obtain ⟨a, v⟩ := c
    simp only [Memory.wfFrom, Bool.and_eq_true, decide_eq_true_eq] at h ⊢
    exact ⟨⟨⟨by omega, h.1.1.2⟩, h.1.2⟩, h.2⟩

/-- Canonical cells from `lo` up hold nothing below `lo`. -/
theorem Memory.read_below {lo : Nat} {m : Memory} (h : Memory.wfFrom lo m = true) {a : Nat} (ha : a < lo) :
    Memory.read m a = Memory.unlisted := by
  induction m generalizing lo with
  | nil => rfl
  | cons c m ih =>
    obtain ⟨b, w⟩ := c
    simp only [Memory.wfFrom, Bool.and_eq_true, decide_eq_true_eq] at h
    rw [Memory.read, if_neg (by omega)]
    exact ih h.2 (by omega)

theorem Memory.wfFrom_write {lo : Nat} {m : Memory} (h : Memory.wfFrom lo m = true) {a : Nat} (hlo : lo ≤ a)
    (ha : a < Memory.size) (v : Byte) : Memory.wfFrom lo (Memory.write m a v) = true := by
  induction m generalizing lo with
  | nil =>
    unfold Memory.write
    split <;> simp_all [Memory.wfFrom]
  | cons c m ih =>
    obtain ⟨b, w⟩ := c
    have h' := h
    simp only [Memory.wfFrom, Bool.and_eq_true, decide_eq_true_eq] at h'
    obtain ⟨⟨⟨hb, hbs⟩, hw⟩, hm⟩ := h'
    unfold Memory.write
    split
    · rename_i hab
      split
      · exact h
      · rename_i hv
        simp only [Memory.wfFrom, Bool.and_eq_true, decide_eq_true_eq, bne_iff_ne, ne_eq]
        exact ⟨⟨⟨hlo, ha⟩, hv⟩, ⟨⟨by omega, hbs⟩, by simpa using hw⟩, hm⟩
    · split
      · rename_i hab
        subst hab
        split
        · exact Memory.wfFrom_mono (by omega) hm
        · rename_i hv
          simp only [Memory.wfFrom, Bool.and_eq_true, decide_eq_true_eq, bne_iff_ne, ne_eq]
          exact ⟨⟨⟨hlo, ha⟩, hv⟩, hm⟩
      · simp only [Memory.wfFrom, Bool.and_eq_true, decide_eq_true_eq]
        exact ⟨⟨⟨hb, hbs⟩, hw⟩, ih hm (by omega)⟩

/-- A write to an address of the space keeps the canonical form. -/
theorem Memory.wf_write {m : Memory} (h : Memory.wf m = true) {a : Nat} (ha : a < Memory.size) (v : Byte) :
    Memory.wf (Memory.write m a v) = true :=
  Memory.wfFrom_write h (Nat.zero_le a) ha v

theorem Memory.wfFrom_ofFnFrom (f : Nat → Byte) :
    ∀ n a, a + n ≤ Memory.size → Memory.wfFrom a (Memory.ofFnFrom f n a) = true
  | 0, _, _ => rfl
  | n + 1, a, h => by
    have ih := Memory.wfFrom_ofFnFrom f n (a + 1) (by omega)
    unfold Memory.ofFnFrom
    split
    · exact Memory.wfFrom_mono (by omega) ih
    · rename_i hv
      simp only [Memory.wfFrom, Bool.and_eq_true, decide_eq_true_eq, bne_iff_ne, ne_eq]
      exact ⟨⟨⟨le_refl a, by omega⟩, hv⟩, ih⟩

/-- A DDRAM given by a function is canonical. -/
@[simp] theorem Memory.wf_ofFn (f : Nat → Byte) : Memory.wf (Memory.ofFn f) = true :=
  Memory.wfFrom_ofFnFrom f Memory.size 0 (by simp)

theorem Memory.read_ofFnFrom (f : Nat → Byte) :
    ∀ n a b, a + n ≤ Memory.size → Memory.read (Memory.ofFnFrom f n a) b =
      if a ≤ b ∧ b < a + n then f b else Memory.unlisted
  | 0, a, b, _ => by
    rw [if_neg (by omega)]
    rfl
  | n + 1, a, b, h => by
    have ih := Memory.read_ofFnFrom f n (a + 1) b (by omega)
    unfold Memory.ofFnFrom
    split
    · rename_i hv
      rw [ih]
      by_cases hab : b = a
      · subst hab
        rw [if_neg (by omega), if_pos (by omega), hv]
      · split <;> split <;> first | rfl | omega
    · by_cases hab : b = a
      · subst hab
        rw [if_pos (by omega), Memory.read, if_pos rfl]
      · rw [Memory.read, if_neg hab, ih]
        split <;> split <;> first | rfl | omega

/-- Each of the 128 cells reads what the function gives it. -/
theorem Memory.read_ofFn (f : Nat → Byte) {a : Nat} (ha : a < Memory.size) :
    Memory.read (Memory.ofFn f) a = f a := by
  rw [Memory.ofFn, Memory.read_ofFnFrom f _ _ _ (by simp), if_pos (by omega)]

theorem Memory.read_write_self_from {lo : Nat} {m : Memory} (h : Memory.wfFrom lo m = true) (a : Nat) (v : Byte) :
    Memory.read (Memory.write m a v) a = v := by
  induction m generalizing lo with
  | nil => unfold Memory.write; split <;> simp_all [Memory.read]
  | cons c m ih =>
    obtain ⟨b, w⟩ := c
    have h' := h
    simp only [Memory.wfFrom, Bool.and_eq_true, decide_eq_true_eq] at h'
    unfold Memory.write
    split
    · rename_i hab
      split
      · rename_i hv
        rw [Memory.read, if_neg (by omega), Memory.read_below h'.2 (by omega), hv]
      · rw [Memory.read, if_pos rfl]
    · split
      · rename_i hab
        subst hab
        split
        · rename_i hv
          rw [Memory.read_below h'.2 (by omega), hv]
        · rw [Memory.read, if_pos rfl]
      · rename_i hab
        rw [Memory.read, if_neg hab]
        exact ih h'.2

/-- A read after a write to the same address gives the byte written. -/
theorem Memory.read_write_self {m : Memory} (h : Memory.wf m = true) (a : Nat) (v : Byte) :
    Memory.read (Memory.write m a v) a = v :=
  Memory.read_write_self_from h a v

/-- A write leaves every other address alone. -/
theorem Memory.read_write_other (m : Memory) {a b : Nat} (hab : b ≠ a) (v : Byte) :
    Memory.read (Memory.write m a v) b = Memory.read m b := by
  induction m with
  | nil => unfold Memory.write; split <;> simp [Memory.read, hab]
  | cons c m ih =>
    obtain ⟨d, w⟩ := c
    unfold Memory.write
    split
    · split
      · rfl
      · rw [Memory.read, if_neg hab]
    · split
      · rename_i hd
        subst hd
        split
        · rw [Memory.read, if_neg hab]
        · rw [Memory.read, if_neg hab, Memory.read, if_neg hab]
      · by_cases hbd : b = d
        · rw [Memory.read, if_pos hbd, Memory.read, if_pos hbd]
        · rw [Memory.read, if_neg hbd, Memory.read, if_neg hbd, ih]

end Sys2Proof.Machine
end

