-- ==== Sys2Proof/Laws/State.lean ====
section
/-! SUPPORT. What each writer of a field leaves of each field, so that no proof unfolds a record update. -/

namespace Sys2Proof.Machine

variable (s : State)

@[simp] theorem State.setData_data (n : Nibble) : (s.setData n).data = n := rfl
@[simp] theorem State.setData_rs (n : Nibble) : (s.setData n).rs = s.rs := rfl
@[simp] theorem State.setData_e (n : Nibble) : (s.setData n).e = s.e := rfl
@[simp] theorem State.setData_mode (n : Nibble) : (s.setData n).mode = s.mode := rfl
@[simp] theorem State.setData_busy (n : Nibble) : (s.setData n).busy = s.busy := rfl
@[simp] theorem State.setData_plan (n : Nibble) : (s.setData n).plan = s.plan := rfl
@[simp] theorem State.setData_cv (n : Nibble) : (s.setData n).cv = s.cv := rfl
@[simp] theorem State.setData_cause (n : Nibble) : (s.setData n).cause = s.cause := rfl
@[simp] theorem State.setData_now (n : Nibble) : (s.setData n).now = s.now := rfl
@[simp] theorem State.setData_trace (n : Nibble) : (s.setData n).trace = s.trace := rfl
@[simp] theorem State.setData_initRun (n : Nibble) : (s.setData n).initRun = s.initRun := rfl
@[simp] theorem State.setData_peer (n : Nibble) : (s.setData n).peer = s.peer := rfl
@[simp] theorem State.setData_epoch (n : Nibble) : (s.setData n).epoch = s.epoch := rfl
@[simp] theorem State.setData_schedule (n : Nibble) : (s.setData n).schedule = s.schedule := rfl
@[simp] theorem State.setData_rdata (n : Nibble) : (s.setData n).rdata = s.rdata := rfl
@[simp] theorem State.setData_draws (n : Nibble) : (s.setData n).draws = s.draws := rfl
@[simp] theorem State.setData_cfg (n : Nibble) : (s.setData n).cfg = s.cfg := rfl

@[simp] theorem State.setRs_data (v : Bool) : (s.setRs v).data = s.data := rfl
@[simp] theorem State.setRs_rs (v : Bool) : (s.setRs v).rs = v := rfl
@[simp] theorem State.setRs_e (v : Bool) : (s.setRs v).e = s.e := rfl
@[simp] theorem State.setRs_mode (v : Bool) : (s.setRs v).mode = s.mode := rfl
@[simp] theorem State.setRs_busy (v : Bool) : (s.setRs v).busy = s.busy := rfl
@[simp] theorem State.setRs_plan (v : Bool) : (s.setRs v).plan = s.plan := rfl
@[simp] theorem State.setRs_cv (v : Bool) : (s.setRs v).cv = s.cv := rfl
@[simp] theorem State.setRs_cause (v : Bool) : (s.setRs v).cause = s.cause := rfl
@[simp] theorem State.setRs_now (v : Bool) : (s.setRs v).now = s.now := rfl
@[simp] theorem State.setRs_trace (v : Bool) : (s.setRs v).trace = s.trace := rfl
@[simp] theorem State.setRs_initRun (v : Bool) : (s.setRs v).initRun = s.initRun := rfl
@[simp] theorem State.setRs_peer (v : Bool) : (s.setRs v).peer = s.peer := rfl
@[simp] theorem State.setRs_epoch (v : Bool) : (s.setRs v).epoch = s.epoch := rfl
@[simp] theorem State.setRs_schedule (v : Bool) : (s.setRs v).schedule = s.schedule := rfl
@[simp] theorem State.setRs_rdata (v : Bool) : (s.setRs v).rdata = s.rdata := rfl
@[simp] theorem State.setRs_draws (v : Bool) : (s.setRs v).draws = s.draws := rfl
@[simp] theorem State.setRs_cfg (v : Bool) : (s.setRs v).cfg = s.cfg := rfl

@[simp] theorem State.setE_data (v : Bool) : (s.setE v).data = s.data := rfl
@[simp] theorem State.setE_rs (v : Bool) : (s.setE v).rs = s.rs := rfl
@[simp] theorem State.setE_e (v : Bool) : (s.setE v).e = v := rfl
@[simp] theorem State.setE_mode (v : Bool) : (s.setE v).mode = s.mode := rfl
@[simp] theorem State.setE_busy (v : Bool) : (s.setE v).busy = s.busy := rfl
@[simp] theorem State.setE_plan (v : Bool) : (s.setE v).plan = s.plan := rfl
@[simp] theorem State.setE_cv (v : Bool) : (s.setE v).cv = s.cv := rfl
@[simp] theorem State.setE_cause (v : Bool) : (s.setE v).cause = s.cause := rfl
@[simp] theorem State.setE_now (v : Bool) : (s.setE v).now = s.now := rfl
@[simp] theorem State.setE_trace (v : Bool) : (s.setE v).trace = s.trace := rfl
@[simp] theorem State.setE_initRun (v : Bool) : (s.setE v).initRun = s.initRun := rfl
@[simp] theorem State.setE_peer (v : Bool) : (s.setE v).peer = s.peer := rfl
@[simp] theorem State.setE_epoch (v : Bool) : (s.setE v).epoch = s.epoch := rfl
@[simp] theorem State.setE_schedule (v : Bool) : (s.setE v).schedule = s.schedule := rfl
@[simp] theorem State.setE_rdata (v : Bool) : (s.setE v).rdata = s.rdata := rfl
@[simp] theorem State.setE_draws (v : Bool) : (s.setE v).draws = s.draws := rfl
@[simp] theorem State.setE_cfg (v : Bool) : (s.setE v).cfg = s.cfg := rfl

@[simp] theorem State.setMode_data (m : Mode) : (s.setMode m).data = s.data := rfl
@[simp] theorem State.setMode_rs (m : Mode) : (s.setMode m).rs = s.rs := rfl
@[simp] theorem State.setMode_e (m : Mode) : (s.setMode m).e = s.e := rfl
@[simp] theorem State.setMode_mode (m : Mode) : (s.setMode m).mode = m := rfl
@[simp] theorem State.setMode_busy (m : Mode) : (s.setMode m).busy = s.busy := rfl
@[simp] theorem State.setMode_plan (m : Mode) : (s.setMode m).plan = s.plan := rfl
@[simp] theorem State.setMode_cv (m : Mode) : (s.setMode m).cv = s.cv := rfl
@[simp] theorem State.setMode_cause (m : Mode) : (s.setMode m).cause = s.cause := rfl
@[simp] theorem State.setMode_now (m : Mode) : (s.setMode m).now = s.now := rfl
@[simp] theorem State.setMode_trace (m : Mode) : (s.setMode m).trace = s.trace := rfl
@[simp] theorem State.setMode_initRun (m : Mode) : (s.setMode m).initRun = s.initRun := rfl
@[simp] theorem State.setMode_peer (m : Mode) : (s.setMode m).peer = s.peer := rfl
@[simp] theorem State.setMode_epoch (m : Mode) : (s.setMode m).epoch = s.epoch := rfl
@[simp] theorem State.setMode_schedule (m : Mode) : (s.setMode m).schedule = s.schedule := rfl
@[simp] theorem State.setMode_rdata (m : Mode) : (s.setMode m).rdata = s.rdata := rfl
@[simp] theorem State.setMode_draws (m : Mode) : (s.setMode m).draws = s.draws := rfl
@[simp] theorem State.setMode_cfg (m : Mode) : (s.setMode m).cfg = s.cfg := rfl

@[simp] theorem State.setBusy_data (v : Bool) : (s.setBusy v).data = s.data := rfl
@[simp] theorem State.setBusy_rs (v : Bool) : (s.setBusy v).rs = s.rs := rfl
@[simp] theorem State.setBusy_e (v : Bool) : (s.setBusy v).e = s.e := rfl
@[simp] theorem State.setBusy_mode (v : Bool) : (s.setBusy v).mode = s.mode := rfl
@[simp] theorem State.setBusy_busy (v : Bool) : (s.setBusy v).busy = v := rfl
@[simp] theorem State.setBusy_plan (v : Bool) : (s.setBusy v).plan = s.plan := rfl
@[simp] theorem State.setBusy_cv (v : Bool) : (s.setBusy v).cv = s.cv := rfl
@[simp] theorem State.setBusy_cause (v : Bool) : (s.setBusy v).cause = s.cause := rfl
@[simp] theorem State.setBusy_now (v : Bool) : (s.setBusy v).now = s.now := rfl
@[simp] theorem State.setBusy_trace (v : Bool) : (s.setBusy v).trace = s.trace := rfl
@[simp] theorem State.setBusy_initRun (v : Bool) : (s.setBusy v).initRun = s.initRun := rfl
@[simp] theorem State.setBusy_peer (v : Bool) : (s.setBusy v).peer = s.peer := rfl
@[simp] theorem State.setBusy_epoch (v : Bool) : (s.setBusy v).epoch = s.epoch := rfl
@[simp] theorem State.setBusy_schedule (v : Bool) : (s.setBusy v).schedule = s.schedule := rfl
@[simp] theorem State.setBusy_rdata (v : Bool) : (s.setBusy v).rdata = s.rdata := rfl
@[simp] theorem State.setBusy_draws (v : Bool) : (s.setBusy v).draws = s.draws := rfl
@[simp] theorem State.setBusy_cfg (v : Bool) : (s.setBusy v).cfg = s.cfg := rfl

@[simp] theorem State.setPlan_data (p : Plan) : (s.setPlan p).data = s.data := rfl
@[simp] theorem State.setPlan_rs (p : Plan) : (s.setPlan p).rs = s.rs := rfl
@[simp] theorem State.setPlan_e (p : Plan) : (s.setPlan p).e = s.e := rfl
@[simp] theorem State.setPlan_mode (p : Plan) : (s.setPlan p).mode = s.mode := rfl
@[simp] theorem State.setPlan_busy (p : Plan) : (s.setPlan p).busy = s.busy := rfl
@[simp] theorem State.setPlan_plan (p : Plan) : (s.setPlan p).plan = p := rfl
@[simp] theorem State.setPlan_cv (p : Plan) : (s.setPlan p).cv = s.cv := rfl
@[simp] theorem State.setPlan_cause (p : Plan) : (s.setPlan p).cause = s.cause := rfl
@[simp] theorem State.setPlan_now (p : Plan) : (s.setPlan p).now = s.now := rfl
@[simp] theorem State.setPlan_trace (p : Plan) : (s.setPlan p).trace = s.trace := rfl
@[simp] theorem State.setPlan_initRun (p : Plan) : (s.setPlan p).initRun = s.initRun := rfl
@[simp] theorem State.setPlan_peer (p : Plan) : (s.setPlan p).peer = s.peer := rfl
@[simp] theorem State.setPlan_epoch (p : Plan) : (s.setPlan p).epoch = s.epoch := rfl
@[simp] theorem State.setPlan_schedule (p : Plan) : (s.setPlan p).schedule = s.schedule := rfl
@[simp] theorem State.setPlan_rdata (p : Plan) : (s.setPlan p).rdata = s.rdata := rfl
@[simp] theorem State.setPlan_draws (p : Plan) : (s.setPlan p).draws = s.draws := rfl
@[simp] theorem State.setPlan_cfg (p : Plan) : (s.setPlan p).cfg = s.cfg := rfl

@[simp] theorem State.setCv_data (v : Bool) : (s.setCv v).data = s.data := rfl
@[simp] theorem State.setCv_rs (v : Bool) : (s.setCv v).rs = s.rs := rfl
@[simp] theorem State.setCv_e (v : Bool) : (s.setCv v).e = s.e := rfl
@[simp] theorem State.setCv_mode (v : Bool) : (s.setCv v).mode = s.mode := rfl
@[simp] theorem State.setCv_busy (v : Bool) : (s.setCv v).busy = s.busy := rfl
@[simp] theorem State.setCv_plan (v : Bool) : (s.setCv v).plan = s.plan := rfl
@[simp] theorem State.setCv_cv (v : Bool) : (s.setCv v).cv = v := rfl
@[simp] theorem State.setCv_cause (v : Bool) : (s.setCv v).cause = s.cause := rfl
@[simp] theorem State.setCv_now (v : Bool) : (s.setCv v).now = s.now := rfl
@[simp] theorem State.setCv_trace (v : Bool) : (s.setCv v).trace = s.trace := rfl
@[simp] theorem State.setCv_initRun (v : Bool) : (s.setCv v).initRun = s.initRun := rfl
@[simp] theorem State.setCv_peer (v : Bool) : (s.setCv v).peer = s.peer := rfl
@[simp] theorem State.setCv_epoch (v : Bool) : (s.setCv v).epoch = s.epoch := rfl
@[simp] theorem State.setCv_schedule (v : Bool) : (s.setCv v).schedule = s.schedule := rfl
@[simp] theorem State.setCv_rdata (v : Bool) : (s.setCv v).rdata = s.rdata := rfl
@[simp] theorem State.setCv_draws (v : Bool) : (s.setCv v).draws = s.draws := rfl
@[simp] theorem State.setCv_cfg (v : Bool) : (s.setCv v).cfg = s.cfg := rfl

@[simp] theorem State.setCause_data (c : BitVec 3) : (s.setCause c).data = s.data := rfl
@[simp] theorem State.setCause_rs (c : BitVec 3) : (s.setCause c).rs = s.rs := rfl
@[simp] theorem State.setCause_e (c : BitVec 3) : (s.setCause c).e = s.e := rfl
@[simp] theorem State.setCause_mode (c : BitVec 3) : (s.setCause c).mode = s.mode := rfl
@[simp] theorem State.setCause_busy (c : BitVec 3) : (s.setCause c).busy = s.busy := rfl
@[simp] theorem State.setCause_plan (c : BitVec 3) : (s.setCause c).plan = s.plan := rfl
@[simp] theorem State.setCause_cv (c : BitVec 3) : (s.setCause c).cv = s.cv := rfl
@[simp] theorem State.setCause_cause (c : BitVec 3) : (s.setCause c).cause = c := rfl
@[simp] theorem State.setCause_now (c : BitVec 3) : (s.setCause c).now = s.now := rfl
@[simp] theorem State.setCause_trace (c : BitVec 3) : (s.setCause c).trace = s.trace := rfl
@[simp] theorem State.setCause_initRun (c : BitVec 3) : (s.setCause c).initRun = s.initRun := rfl
@[simp] theorem State.setCause_peer (c : BitVec 3) : (s.setCause c).peer = s.peer := rfl
@[simp] theorem State.setCause_epoch (c : BitVec 3) : (s.setCause c).epoch = s.epoch := rfl
@[simp] theorem State.setCause_schedule (c : BitVec 3) : (s.setCause c).schedule = s.schedule := rfl
@[simp] theorem State.setCause_rdata (c : BitVec 3) : (s.setCause c).rdata = s.rdata := rfl
@[simp] theorem State.setCause_draws (c : BitVec 3) : (s.setCause c).draws = s.draws := rfl
@[simp] theorem State.setCause_cfg (c : BitVec 3) : (s.setCause c).cfg = s.cfg := rfl

@[simp] theorem State.setNow_data (t : Nat) : (s.setNow t).data = s.data := rfl
@[simp] theorem State.setNow_rs (t : Nat) : (s.setNow t).rs = s.rs := rfl
@[simp] theorem State.setNow_e (t : Nat) : (s.setNow t).e = s.e := rfl
@[simp] theorem State.setNow_mode (t : Nat) : (s.setNow t).mode = s.mode := rfl
@[simp] theorem State.setNow_busy (t : Nat) : (s.setNow t).busy = s.busy := rfl
@[simp] theorem State.setNow_plan (t : Nat) : (s.setNow t).plan = s.plan := rfl
@[simp] theorem State.setNow_cv (t : Nat) : (s.setNow t).cv = s.cv := rfl
@[simp] theorem State.setNow_cause (t : Nat) : (s.setNow t).cause = s.cause := rfl
@[simp] theorem State.setNow_now (t : Nat) : (s.setNow t).now = t := rfl
@[simp] theorem State.setNow_trace (t : Nat) : (s.setNow t).trace = s.trace := rfl
@[simp] theorem State.setNow_initRun (t : Nat) : (s.setNow t).initRun = s.initRun := rfl
@[simp] theorem State.setNow_peer (t : Nat) : (s.setNow t).peer = s.peer := rfl
@[simp] theorem State.setNow_epoch (t : Nat) : (s.setNow t).epoch = s.epoch := rfl
@[simp] theorem State.setNow_schedule (t : Nat) : (s.setNow t).schedule = s.schedule := rfl
@[simp] theorem State.setNow_rdata (t : Nat) : (s.setNow t).rdata = s.rdata := rfl
@[simp] theorem State.setNow_draws (t : Nat) : (s.setNow t).draws = s.draws := rfl
@[simp] theorem State.setNow_cfg (t : Nat) : (s.setNow t).cfg = s.cfg := rfl

@[simp] theorem State.setTrace_data (l : List (Nat × BusEvent)) : (s.setTrace l).data = s.data := rfl
@[simp] theorem State.setTrace_rs (l : List (Nat × BusEvent)) : (s.setTrace l).rs = s.rs := rfl
@[simp] theorem State.setTrace_e (l : List (Nat × BusEvent)) : (s.setTrace l).e = s.e := rfl
@[simp] theorem State.setTrace_mode (l : List (Nat × BusEvent)) : (s.setTrace l).mode = s.mode := rfl
@[simp] theorem State.setTrace_busy (l : List (Nat × BusEvent)) : (s.setTrace l).busy = s.busy := rfl
@[simp] theorem State.setTrace_plan (l : List (Nat × BusEvent)) : (s.setTrace l).plan = s.plan := rfl
@[simp] theorem State.setTrace_cv (l : List (Nat × BusEvent)) : (s.setTrace l).cv = s.cv := rfl
@[simp] theorem State.setTrace_cause (l : List (Nat × BusEvent)) : (s.setTrace l).cause = s.cause := rfl
@[simp] theorem State.setTrace_now (l : List (Nat × BusEvent)) : (s.setTrace l).now = s.now := rfl
@[simp] theorem State.setTrace_trace (l : List (Nat × BusEvent)) : (s.setTrace l).trace = l := rfl
@[simp] theorem State.setTrace_initRun (l : List (Nat × BusEvent)) : (s.setTrace l).initRun = s.initRun := rfl
@[simp] theorem State.setTrace_peer (l : List (Nat × BusEvent)) : (s.setTrace l).peer = s.peer := rfl
@[simp] theorem State.setTrace_epoch (l : List (Nat × BusEvent)) : (s.setTrace l).epoch = s.epoch := rfl
@[simp] theorem State.setTrace_schedule (l : List (Nat × BusEvent)) : (s.setTrace l).schedule = s.schedule := rfl
@[simp] theorem State.setTrace_rdata (l : List (Nat × BusEvent)) : (s.setTrace l).rdata = s.rdata := rfl
@[simp] theorem State.setTrace_draws (l : List (Nat × BusEvent)) : (s.setTrace l).draws = s.draws := rfl
@[simp] theorem State.setTrace_cfg (l : List (Nat × BusEvent)) : (s.setTrace l).cfg = s.cfg := rfl

@[simp] theorem State.setInitRun_data (v : Bool) : (s.setInitRun v).data = s.data := rfl
@[simp] theorem State.setInitRun_rs (v : Bool) : (s.setInitRun v).rs = s.rs := rfl
@[simp] theorem State.setInitRun_e (v : Bool) : (s.setInitRun v).e = s.e := rfl
@[simp] theorem State.setInitRun_mode (v : Bool) : (s.setInitRun v).mode = s.mode := rfl
@[simp] theorem State.setInitRun_busy (v : Bool) : (s.setInitRun v).busy = s.busy := rfl
@[simp] theorem State.setInitRun_plan (v : Bool) : (s.setInitRun v).plan = s.plan := rfl
@[simp] theorem State.setInitRun_cv (v : Bool) : (s.setInitRun v).cv = s.cv := rfl
@[simp] theorem State.setInitRun_cause (v : Bool) : (s.setInitRun v).cause = s.cause := rfl
@[simp] theorem State.setInitRun_now (v : Bool) : (s.setInitRun v).now = s.now := rfl
@[simp] theorem State.setInitRun_trace (v : Bool) : (s.setInitRun v).trace = s.trace := rfl
@[simp] theorem State.setInitRun_initRun (v : Bool) : (s.setInitRun v).initRun = v := rfl
@[simp] theorem State.setInitRun_peer (v : Bool) : (s.setInitRun v).peer = s.peer := rfl
@[simp] theorem State.setInitRun_epoch (v : Bool) : (s.setInitRun v).epoch = s.epoch := rfl
@[simp] theorem State.setInitRun_schedule (v : Bool) : (s.setInitRun v).schedule = s.schedule := rfl
@[simp] theorem State.setInitRun_rdata (v : Bool) : (s.setInitRun v).rdata = s.rdata := rfl
@[simp] theorem State.setInitRun_draws (v : Bool) : (s.setInitRun v).draws = s.draws := rfl
@[simp] theorem State.setInitRun_cfg (v : Bool) : (s.setInitRun v).cfg = s.cfg := rfl

@[simp] theorem State.setPeer_data (p : Peer) : (s.setPeer p).data = s.data := rfl
@[simp] theorem State.setPeer_rs (p : Peer) : (s.setPeer p).rs = s.rs := rfl
@[simp] theorem State.setPeer_e (p : Peer) : (s.setPeer p).e = s.e := rfl
@[simp] theorem State.setPeer_mode (p : Peer) : (s.setPeer p).mode = s.mode := rfl
@[simp] theorem State.setPeer_busy (p : Peer) : (s.setPeer p).busy = s.busy := rfl
@[simp] theorem State.setPeer_plan (p : Peer) : (s.setPeer p).plan = s.plan := rfl
@[simp] theorem State.setPeer_cv (p : Peer) : (s.setPeer p).cv = s.cv := rfl
@[simp] theorem State.setPeer_cause (p : Peer) : (s.setPeer p).cause = s.cause := rfl
@[simp] theorem State.setPeer_now (p : Peer) : (s.setPeer p).now = s.now := rfl
@[simp] theorem State.setPeer_trace (p : Peer) : (s.setPeer p).trace = s.trace := rfl
@[simp] theorem State.setPeer_initRun (p : Peer) : (s.setPeer p).initRun = s.initRun := rfl
@[simp] theorem State.setPeer_peer (p : Peer) : (s.setPeer p).peer = p := rfl
@[simp] theorem State.setPeer_epoch (p : Peer) : (s.setPeer p).epoch = s.epoch := rfl
@[simp] theorem State.setPeer_schedule (p : Peer) : (s.setPeer p).schedule = s.schedule := rfl
@[simp] theorem State.setPeer_rdata (p : Peer) : (s.setPeer p).rdata = s.rdata := rfl
@[simp] theorem State.setPeer_draws (p : Peer) : (s.setPeer p).draws = s.draws := rfl
@[simp] theorem State.setPeer_cfg (p : Peer) : (s.setPeer p).cfg = s.cfg := rfl

@[simp] theorem State.setEpoch_data (t : Nat) : (s.setEpoch t).data = s.data := rfl
@[simp] theorem State.setEpoch_rs (t : Nat) : (s.setEpoch t).rs = s.rs := rfl
@[simp] theorem State.setEpoch_e (t : Nat) : (s.setEpoch t).e = s.e := rfl
@[simp] theorem State.setEpoch_mode (t : Nat) : (s.setEpoch t).mode = s.mode := rfl
@[simp] theorem State.setEpoch_busy (t : Nat) : (s.setEpoch t).busy = s.busy := rfl
@[simp] theorem State.setEpoch_plan (t : Nat) : (s.setEpoch t).plan = s.plan := rfl
@[simp] theorem State.setEpoch_cv (t : Nat) : (s.setEpoch t).cv = s.cv := rfl
@[simp] theorem State.setEpoch_cause (t : Nat) : (s.setEpoch t).cause = s.cause := rfl
@[simp] theorem State.setEpoch_now (t : Nat) : (s.setEpoch t).now = s.now := rfl
@[simp] theorem State.setEpoch_trace (t : Nat) : (s.setEpoch t).trace = s.trace := rfl
@[simp] theorem State.setEpoch_initRun (t : Nat) : (s.setEpoch t).initRun = s.initRun := rfl
@[simp] theorem State.setEpoch_peer (t : Nat) : (s.setEpoch t).peer = s.peer := rfl
@[simp] theorem State.setEpoch_epoch (t : Nat) : (s.setEpoch t).epoch = t := rfl
@[simp] theorem State.setEpoch_schedule (t : Nat) : (s.setEpoch t).schedule = s.schedule := rfl
@[simp] theorem State.setEpoch_rdata (t : Nat) : (s.setEpoch t).rdata = s.rdata := rfl
@[simp] theorem State.setEpoch_draws (t : Nat) : (s.setEpoch t).draws = s.draws := rfl
@[simp] theorem State.setEpoch_cfg (t : Nat) : (s.setEpoch t).cfg = s.cfg := rfl

@[simp] theorem State.setSchedule_data (l : List Turn) : (s.setSchedule l).data = s.data := rfl
@[simp] theorem State.setSchedule_rs (l : List Turn) : (s.setSchedule l).rs = s.rs := rfl
@[simp] theorem State.setSchedule_e (l : List Turn) : (s.setSchedule l).e = s.e := rfl
@[simp] theorem State.setSchedule_mode (l : List Turn) : (s.setSchedule l).mode = s.mode := rfl
@[simp] theorem State.setSchedule_busy (l : List Turn) : (s.setSchedule l).busy = s.busy := rfl
@[simp] theorem State.setSchedule_plan (l : List Turn) : (s.setSchedule l).plan = s.plan := rfl
@[simp] theorem State.setSchedule_cv (l : List Turn) : (s.setSchedule l).cv = s.cv := rfl
@[simp] theorem State.setSchedule_cause (l : List Turn) : (s.setSchedule l).cause = s.cause := rfl
@[simp] theorem State.setSchedule_now (l : List Turn) : (s.setSchedule l).now = s.now := rfl
@[simp] theorem State.setSchedule_trace (l : List Turn) : (s.setSchedule l).trace = s.trace := rfl
@[simp] theorem State.setSchedule_initRun (l : List Turn) : (s.setSchedule l).initRun = s.initRun := rfl
@[simp] theorem State.setSchedule_peer (l : List Turn) : (s.setSchedule l).peer = s.peer := rfl
@[simp] theorem State.setSchedule_epoch (l : List Turn) : (s.setSchedule l).epoch = s.epoch := rfl
@[simp] theorem State.setSchedule_schedule (l : List Turn) : (s.setSchedule l).schedule = l := rfl
@[simp] theorem State.setSchedule_rdata (l : List Turn) : (s.setSchedule l).rdata = s.rdata := rfl
@[simp] theorem State.setSchedule_draws (l : List Turn) : (s.setSchedule l).draws = s.draws := rfl
@[simp] theorem State.setSchedule_cfg (l : List Turn) : (s.setSchedule l).cfg = s.cfg := rfl

@[simp] theorem State.setRdata_data (w : Option Word) : (s.setRdata w).data = s.data := rfl
@[simp] theorem State.setRdata_rs (w : Option Word) : (s.setRdata w).rs = s.rs := rfl
@[simp] theorem State.setRdata_e (w : Option Word) : (s.setRdata w).e = s.e := rfl
@[simp] theorem State.setRdata_mode (w : Option Word) : (s.setRdata w).mode = s.mode := rfl
@[simp] theorem State.setRdata_busy (w : Option Word) : (s.setRdata w).busy = s.busy := rfl
@[simp] theorem State.setRdata_plan (w : Option Word) : (s.setRdata w).plan = s.plan := rfl
@[simp] theorem State.setRdata_cv (w : Option Word) : (s.setRdata w).cv = s.cv := rfl
@[simp] theorem State.setRdata_cause (w : Option Word) : (s.setRdata w).cause = s.cause := rfl
@[simp] theorem State.setRdata_now (w : Option Word) : (s.setRdata w).now = s.now := rfl
@[simp] theorem State.setRdata_trace (w : Option Word) : (s.setRdata w).trace = s.trace := rfl
@[simp] theorem State.setRdata_initRun (w : Option Word) : (s.setRdata w).initRun = s.initRun := rfl
@[simp] theorem State.setRdata_peer (w : Option Word) : (s.setRdata w).peer = s.peer := rfl
@[simp] theorem State.setRdata_epoch (w : Option Word) : (s.setRdata w).epoch = s.epoch := rfl
@[simp] theorem State.setRdata_schedule (w : Option Word) : (s.setRdata w).schedule = s.schedule := rfl
@[simp] theorem State.setRdata_rdata (w : Option Word) : (s.setRdata w).rdata = w := rfl
@[simp] theorem State.setRdata_draws (w : Option Word) : (s.setRdata w).draws = s.draws := rfl
@[simp] theorem State.setRdata_cfg (w : Option Word) : (s.setRdata w).cfg = s.cfg := rfl

@[simp] theorem State.setDraws_data (k : Nat) : (s.setDraws k).data = s.data := rfl
@[simp] theorem State.setDraws_rs (k : Nat) : (s.setDraws k).rs = s.rs := rfl
@[simp] theorem State.setDraws_e (k : Nat) : (s.setDraws k).e = s.e := rfl
@[simp] theorem State.setDraws_mode (k : Nat) : (s.setDraws k).mode = s.mode := rfl
@[simp] theorem State.setDraws_busy (k : Nat) : (s.setDraws k).busy = s.busy := rfl
@[simp] theorem State.setDraws_plan (k : Nat) : (s.setDraws k).plan = s.plan := rfl
@[simp] theorem State.setDraws_cv (k : Nat) : (s.setDraws k).cv = s.cv := rfl
@[simp] theorem State.setDraws_cause (k : Nat) : (s.setDraws k).cause = s.cause := rfl
@[simp] theorem State.setDraws_now (k : Nat) : (s.setDraws k).now = s.now := rfl
@[simp] theorem State.setDraws_trace (k : Nat) : (s.setDraws k).trace = s.trace := rfl
@[simp] theorem State.setDraws_initRun (k : Nat) : (s.setDraws k).initRun = s.initRun := rfl
@[simp] theorem State.setDraws_peer (k : Nat) : (s.setDraws k).peer = s.peer := rfl
@[simp] theorem State.setDraws_epoch (k : Nat) : (s.setDraws k).epoch = s.epoch := rfl
@[simp] theorem State.setDraws_schedule (k : Nat) : (s.setDraws k).schedule = s.schedule := rfl
@[simp] theorem State.setDraws_rdata (k : Nat) : (s.setDraws k).rdata = s.rdata := rfl
@[simp] theorem State.setDraws_draws (k : Nat) : (s.setDraws k).draws = k := rfl
@[simp] theorem State.setDraws_cfg (k : Nat) : (s.setDraws k).cfg = s.cfg := rfl

@[simp] theorem State.popTurn_data : s.popTurn.data = s.data := rfl
@[simp] theorem State.popTurn_rs : s.popTurn.rs = s.rs := rfl
@[simp] theorem State.popTurn_e : s.popTurn.e = s.e := rfl
@[simp] theorem State.popTurn_mode : s.popTurn.mode = s.mode := rfl
@[simp] theorem State.popTurn_busy : s.popTurn.busy = s.busy := rfl
@[simp] theorem State.popTurn_plan : s.popTurn.plan = s.plan := rfl
@[simp] theorem State.popTurn_cv : s.popTurn.cv = s.cv := rfl
@[simp] theorem State.popTurn_cause : s.popTurn.cause = s.cause := rfl
@[simp] theorem State.popTurn_now : s.popTurn.now = s.now := rfl
@[simp] theorem State.popTurn_trace : s.popTurn.trace = s.trace := rfl
@[simp] theorem State.popTurn_initRun : s.popTurn.initRun = s.initRun := rfl
@[simp] theorem State.popTurn_peer : s.popTurn.peer = s.peer := rfl
@[simp] theorem State.popTurn_epoch : s.popTurn.epoch = s.epoch := rfl
@[simp] theorem State.popTurn_schedule : s.popTurn.schedule = s.schedule.tail := rfl
@[simp] theorem State.popTurn_rdata : s.popTurn.rdata = s.rdata := rfl
@[simp] theorem State.popTurn_draws : s.popTurn.draws = s.draws := rfl
@[simp] theorem State.popTurn_cfg : s.popTurn.cfg = s.cfg := rfl

@[simp] theorem State.record_data (ev : BusEvent) : (s.record ev).data = s.data := rfl
@[simp] theorem State.record_rs (ev : BusEvent) : (s.record ev).rs = s.rs := rfl
@[simp] theorem State.record_e (ev : BusEvent) : (s.record ev).e = s.e := rfl
@[simp] theorem State.record_mode (ev : BusEvent) : (s.record ev).mode = s.mode := rfl
@[simp] theorem State.record_busy (ev : BusEvent) : (s.record ev).busy = s.busy := rfl
@[simp] theorem State.record_plan (ev : BusEvent) : (s.record ev).plan = s.plan := rfl
@[simp] theorem State.record_cv (ev : BusEvent) : (s.record ev).cv = s.cv := rfl
@[simp] theorem State.record_cause (ev : BusEvent) : (s.record ev).cause = s.cause := rfl
@[simp] theorem State.record_now (ev : BusEvent) : (s.record ev).now = s.now := rfl
@[simp] theorem State.record_trace (ev : BusEvent) : (s.record ev).trace = s.trace ++ [(s.now, ev)] := rfl
@[simp] theorem State.record_initRun (ev : BusEvent) : (s.record ev).initRun = s.initRun := rfl
@[simp] theorem State.record_peer (ev : BusEvent) : (s.record ev).peer = s.peer := rfl
@[simp] theorem State.record_epoch (ev : BusEvent) : (s.record ev).epoch = s.epoch := rfl
@[simp] theorem State.record_schedule (ev : BusEvent) : (s.record ev).schedule = s.schedule := rfl
@[simp] theorem State.record_rdata (ev : BusEvent) : (s.record ev).rdata = s.rdata := rfl
@[simp] theorem State.record_draws (ev : BusEvent) : (s.record ev).draws = s.draws := rfl
@[simp] theorem State.record_cfg (ev : BusEvent) : (s.record ev).cfg = s.cfg := rfl

@[simp] theorem State.driveData_data (n : Nibble) : (s.driveData n).data = n := rfl
@[simp] theorem State.driveData_rs (n : Nibble) : (s.driveData n).rs = s.rs := rfl
@[simp] theorem State.driveData_e (n : Nibble) : (s.driveData n).e = s.e := rfl
@[simp] theorem State.driveData_mode (n : Nibble) : (s.driveData n).mode = s.mode := rfl
@[simp] theorem State.driveData_busy (n : Nibble) : (s.driveData n).busy = s.busy := rfl
@[simp] theorem State.driveData_plan (n : Nibble) : (s.driveData n).plan = s.plan := rfl
@[simp] theorem State.driveData_cv (n : Nibble) : (s.driveData n).cv = s.cv := rfl
@[simp] theorem State.driveData_cause (n : Nibble) : (s.driveData n).cause = s.cause := rfl
@[simp] theorem State.driveData_now (n : Nibble) : (s.driveData n).now = s.now := rfl
@[simp] theorem State.driveData_trace (n : Nibble) : (s.driveData n).trace = s.trace ++ [(s.now, .data n)] := rfl
@[simp] theorem State.driveData_initRun (n : Nibble) : (s.driveData n).initRun = s.initRun := rfl
@[simp] theorem State.driveData_peer (n : Nibble) : (s.driveData n).peer = s.peer := rfl
@[simp] theorem State.driveData_epoch (n : Nibble) : (s.driveData n).epoch = s.epoch := rfl
@[simp] theorem State.driveData_schedule (n : Nibble) : (s.driveData n).schedule = s.schedule := rfl
@[simp] theorem State.driveData_rdata (n : Nibble) : (s.driveData n).rdata = s.rdata := rfl
@[simp] theorem State.driveData_draws (n : Nibble) : (s.driveData n).draws = s.draws := rfl
@[simp] theorem State.driveData_cfg (n : Nibble) : (s.driveData n).cfg = s.cfg := rfl

@[simp] theorem State.driveRs_data (v : Bool) : (s.driveRs v).data = s.data := rfl
@[simp] theorem State.driveRs_rs (v : Bool) : (s.driveRs v).rs = v := rfl
@[simp] theorem State.driveRs_e (v : Bool) : (s.driveRs v).e = s.e := rfl
@[simp] theorem State.driveRs_mode (v : Bool) : (s.driveRs v).mode = s.mode := rfl
@[simp] theorem State.driveRs_busy (v : Bool) : (s.driveRs v).busy = s.busy := rfl
@[simp] theorem State.driveRs_plan (v : Bool) : (s.driveRs v).plan = s.plan := rfl
@[simp] theorem State.driveRs_cv (v : Bool) : (s.driveRs v).cv = s.cv := rfl
@[simp] theorem State.driveRs_cause (v : Bool) : (s.driveRs v).cause = s.cause := rfl
@[simp] theorem State.driveRs_now (v : Bool) : (s.driveRs v).now = s.now := rfl
@[simp] theorem State.driveRs_trace (v : Bool) : (s.driveRs v).trace = s.trace ++ [(s.now, .rs v)] := rfl
@[simp] theorem State.driveRs_initRun (v : Bool) : (s.driveRs v).initRun = s.initRun := rfl
@[simp] theorem State.driveRs_peer (v : Bool) : (s.driveRs v).peer = s.peer := rfl
@[simp] theorem State.driveRs_epoch (v : Bool) : (s.driveRs v).epoch = s.epoch := rfl
@[simp] theorem State.driveRs_schedule (v : Bool) : (s.driveRs v).schedule = s.schedule := rfl
@[simp] theorem State.driveRs_rdata (v : Bool) : (s.driveRs v).rdata = s.rdata := rfl
@[simp] theorem State.driveRs_draws (v : Bool) : (s.driveRs v).draws = s.draws := rfl
@[simp] theorem State.driveRs_cfg (v : Bool) : (s.driveRs v).cfg = s.cfg := rfl

@[simp] theorem State.driveE_data (v : Bool) : (s.driveE v).data = s.data := rfl
@[simp] theorem State.driveE_rs (v : Bool) : (s.driveE v).rs = s.rs := rfl
@[simp] theorem State.driveE_e (v : Bool) : (s.driveE v).e = v := rfl
@[simp] theorem State.driveE_mode (v : Bool) : (s.driveE v).mode = s.mode := rfl
@[simp] theorem State.driveE_busy (v : Bool) : (s.driveE v).busy = s.busy := rfl
@[simp] theorem State.driveE_plan (v : Bool) : (s.driveE v).plan = s.plan := rfl
@[simp] theorem State.driveE_cv (v : Bool) : (s.driveE v).cv = s.cv := rfl
@[simp] theorem State.driveE_cause (v : Bool) : (s.driveE v).cause = s.cause := rfl
@[simp] theorem State.driveE_now (v : Bool) : (s.driveE v).now = s.now := rfl
@[simp] theorem State.driveE_trace (v : Bool) : (s.driveE v).trace = s.trace ++ [(s.now, .e v)] := rfl
@[simp] theorem State.driveE_initRun (v : Bool) : (s.driveE v).initRun = s.initRun := rfl
@[simp] theorem State.driveE_peer (v : Bool) : (s.driveE v).peer = s.peer := rfl
@[simp] theorem State.driveE_epoch (v : Bool) : (s.driveE v).epoch = s.epoch := rfl
@[simp] theorem State.driveE_schedule (v : Bool) : (s.driveE v).schedule = s.schedule := rfl
@[simp] theorem State.driveE_rdata (v : Bool) : (s.driveE v).rdata = s.rdata := rfl
@[simp] theorem State.driveE_draws (v : Bool) : (s.driveE v).draws = s.draws := rfl
@[simp] theorem State.driveE_cfg (v : Bool) : (s.driveE v).cfg = s.cfg := rfl

@[simp] theorem State.loadPlan_data (b : Bool) (p : Plan) : (s.loadPlan b p).data = s.data := rfl
@[simp] theorem State.loadPlan_rs (b : Bool) (p : Plan) : (s.loadPlan b p).rs = s.rs := rfl
@[simp] theorem State.loadPlan_e (b : Bool) (p : Plan) : (s.loadPlan b p).e = s.e := rfl
@[simp] theorem State.loadPlan_mode (b : Bool) (p : Plan) : (s.loadPlan b p).mode = s.mode := rfl
@[simp] theorem State.loadPlan_busy (b : Bool) (p : Plan) : (s.loadPlan b p).busy = !p.isEmpty := rfl
@[simp] theorem State.loadPlan_plan (b : Bool) (p : Plan) : (s.loadPlan b p).plan = p := rfl
@[simp] theorem State.loadPlan_cv (b : Bool) (p : Plan) : (s.loadPlan b p).cv = s.cv := rfl
@[simp] theorem State.loadPlan_cause (b : Bool) (p : Plan) : (s.loadPlan b p).cause = s.cause := rfl
@[simp] theorem State.loadPlan_now (b : Bool) (p : Plan) : (s.loadPlan b p).now = s.now := rfl
@[simp] theorem State.loadPlan_trace (b : Bool) (p : Plan) : (s.loadPlan b p).trace = s.trace := rfl
@[simp] theorem State.loadPlan_initRun (b : Bool) (p : Plan) : (s.loadPlan b p).initRun = b := rfl
@[simp] theorem State.loadPlan_peer (b : Bool) (p : Plan) : (s.loadPlan b p).peer = s.peer := rfl
@[simp] theorem State.loadPlan_epoch (b : Bool) (p : Plan) : (s.loadPlan b p).epoch = s.epoch := rfl
@[simp] theorem State.loadPlan_schedule (b : Bool) (p : Plan) : (s.loadPlan b p).schedule = s.schedule := rfl
@[simp] theorem State.loadPlan_rdata (b : Bool) (p : Plan) : (s.loadPlan b p).rdata = s.rdata := rfl
@[simp] theorem State.loadPlan_draws (b : Bool) (p : Plan) : (s.loadPlan b p).draws = s.draws := rfl
@[simp] theorem State.loadPlan_cfg (b : Bool) (p : Plan) : (s.loadPlan b p).cfg = s.cfg := rfl

@[simp] theorem State.passTime_data (d : Nat) : (s.passTime d).data = s.data := rfl
@[simp] theorem State.passTime_rs (d : Nat) : (s.passTime d).rs = s.rs := rfl
@[simp] theorem State.passTime_e (d : Nat) : (s.passTime d).e = s.e := rfl
@[simp] theorem State.passTime_mode (d : Nat) : (s.passTime d).mode = s.mode := rfl
@[simp] theorem State.passTime_busy (d : Nat) : (s.passTime d).busy = s.busy := rfl
@[simp] theorem State.passTime_plan (d : Nat) : (s.passTime d).plan = s.plan := rfl
@[simp] theorem State.passTime_cv (d : Nat) : (s.passTime d).cv = s.cv := rfl
@[simp] theorem State.passTime_cause (d : Nat) : (s.passTime d).cause = s.cause := rfl
@[simp] theorem State.passTime_now (d : Nat) : (s.passTime d).now = s.now + (d + freeDelay s.draws) := rfl
@[simp] theorem State.passTime_trace (d : Nat) : (s.passTime d).trace = s.trace := rfl
@[simp] theorem State.passTime_initRun (d : Nat) : (s.passTime d).initRun = s.initRun := rfl
@[simp] theorem State.passTime_peer (d : Nat) : (s.passTime d).peer = s.peer := rfl
@[simp] theorem State.passTime_epoch (d : Nat) : (s.passTime d).epoch = s.epoch := rfl
@[simp] theorem State.passTime_schedule (d : Nat) : (s.passTime d).schedule = s.schedule := rfl
@[simp] theorem State.passTime_rdata (d : Nat) : (s.passTime d).rdata = s.rdata := rfl
@[simp] theorem State.passTime_draws (d : Nat) : (s.passTime d).draws = s.draws + 1 := rfl
@[simp] theorem State.passTime_cfg (d : Nat) : (s.passTime d).cfg = s.cfg := rfl

@[simp] theorem State.readRegister_data (o : Nat) : (s.readRegister o).data = s.data := rfl
@[simp] theorem State.readRegister_rs (o : Nat) : (s.readRegister o).rs = s.rs := rfl
@[simp] theorem State.readRegister_e (o : Nat) : (s.readRegister o).e = s.e := rfl
@[simp] theorem State.readRegister_mode (o : Nat) : (s.readRegister o).mode = s.mode := rfl
@[simp] theorem State.readRegister_busy (o : Nat) : (s.readRegister o).busy = s.busy := rfl
@[simp] theorem State.readRegister_plan (o : Nat) : (s.readRegister o).plan = s.plan := rfl
@[simp] theorem State.readRegister_cv (o : Nat) : (s.readRegister o).cv = s.cv := rfl
@[simp] theorem State.readRegister_cause (o : Nat) : (s.readRegister o).cause = s.cause := rfl
@[simp] theorem State.readRegister_now (o : Nat) : (s.readRegister o).now = s.now := rfl
@[simp] theorem State.readRegister_trace (o : Nat) : (s.readRegister o).trace = s.trace := rfl
@[simp] theorem State.readRegister_initRun (o : Nat) : (s.readRegister o).initRun = s.initRun := rfl
@[simp] theorem State.readRegister_peer (o : Nat) : (s.readRegister o).peer = s.peer := rfl
@[simp] theorem State.readRegister_epoch (o : Nat) : (s.readRegister o).epoch = s.epoch := rfl
@[simp] theorem State.readRegister_schedule (o : Nat) : (s.readRegister o).schedule = s.schedule := rfl
@[simp] theorem State.readRegister_rdata (o : Nat) : (s.readRegister o).rdata = some (if o = 4 then s.status else 0) := rfl
@[simp] theorem State.readRegister_draws (o : Nat) : (s.readRegister o).draws = s.draws := rfl
@[simp] theorem State.readRegister_cfg (o : Nat) : (s.readRegister o).cfg = s.cfg := rfl

@[simp] theorem State.raisePeer_data (f : PeerFault) : (s.raisePeer f).data = s.data := rfl
@[simp] theorem State.raisePeer_rs (f : PeerFault) : (s.raisePeer f).rs = s.rs := rfl
@[simp] theorem State.raisePeer_e (f : PeerFault) : (s.raisePeer f).e = s.e := rfl
@[simp] theorem State.raisePeer_mode (f : PeerFault) : (s.raisePeer f).mode = s.mode := rfl
@[simp] theorem State.raisePeer_busy (f : PeerFault) : (s.raisePeer f).busy = s.busy := rfl
@[simp] theorem State.raisePeer_plan (f : PeerFault) : (s.raisePeer f).plan = s.plan := rfl
@[simp] theorem State.raisePeer_cv (f : PeerFault) : (s.raisePeer f).cv = s.cv := rfl
@[simp] theorem State.raisePeer_cause (f : PeerFault) : (s.raisePeer f).cause = s.cause := rfl
@[simp] theorem State.raisePeer_now (f : PeerFault) : (s.raisePeer f).now = s.now := rfl
@[simp] theorem State.raisePeer_trace (f : PeerFault) : (s.raisePeer f).trace = s.trace := rfl
@[simp] theorem State.raisePeer_initRun (f : PeerFault) : (s.raisePeer f).initRun = s.initRun := rfl
@[simp] theorem State.raisePeer_peer (f : PeerFault) : (s.raisePeer f).peer = s.peer.raise f := rfl
@[simp] theorem State.raisePeer_epoch (f : PeerFault) : (s.raisePeer f).epoch = s.epoch := rfl
@[simp] theorem State.raisePeer_schedule (f : PeerFault) : (s.raisePeer f).schedule = s.schedule := rfl
@[simp] theorem State.raisePeer_rdata (f : PeerFault) : (s.raisePeer f).rdata = s.rdata := rfl
@[simp] theorem State.raisePeer_draws (f : PeerFault) : (s.raisePeer f).draws = s.draws := rfl
@[simp] theorem State.raisePeer_cfg (f : PeerFault) : (s.raisePeer f).cfg = s.cfg := rfl

@[simp] theorem State.resetBlock_data : s.resetBlock.data = 0 := rfl
@[simp] theorem State.resetBlock_rs : s.resetBlock.rs = false := rfl
@[simp] theorem State.resetBlock_e : s.resetBlock.e = true := rfl
@[simp] theorem State.resetBlock_mode : s.resetBlock.mode = .uninit := rfl
@[simp] theorem State.resetBlock_busy : s.resetBlock.busy = false := rfl
@[simp] theorem State.resetBlock_plan : s.resetBlock.plan = [] := rfl
@[simp] theorem State.resetBlock_cv : s.resetBlock.cv = false := rfl
@[simp] theorem State.resetBlock_cause : s.resetBlock.cause = 0 := rfl
@[simp] theorem State.resetBlock_now : s.resetBlock.now = 0 := rfl
@[simp] theorem State.resetBlock_trace : s.resetBlock.trace = [] := rfl
@[simp] theorem State.resetBlock_initRun : s.resetBlock.initRun = false := rfl
@[simp] theorem State.resetBlock_peer : s.resetBlock.peer = s.peer := rfl
@[simp] theorem State.resetBlock_epoch : s.resetBlock.epoch = s.peerTime := rfl
@[simp] theorem State.resetBlock_schedule : s.resetBlock.schedule = s.schedule := rfl
@[simp] theorem State.resetBlock_rdata : s.resetBlock.rdata = s.rdata := rfl
@[simp] theorem State.resetBlock_draws : s.resetBlock.draws = s.draws := rfl
@[simp] theorem State.resetBlock_cfg : s.resetBlock.cfg = s.cfg := rfl

end Sys2Proof.Machine
end

