-- ==== Sys2Proof/Laws/Ops.lean ====
section
/-! SUPPORT. One lemma per shared operation: everything it can do, so that callers cite it instead of unfolding it. -/

namespace Sys2Proof.Machine

/-! ### `drift`: every step's end -/

theorem State.drift_of_no_fault {s : State} (h : s.peer.fault = none) : s.drift = s := by
  unfold State.drift
  split
  · rfl
  · simp_all

theorem State.drift_of_fault {s : State} {f : PeerFault} (h : s.peer.fault = some f) :
    s.drift = (s.setPeer { Peer.any s.draws with fault := some f }).setDraws (s.draws + 1) := by
  unfold State.drift
  split <;> simp_all

@[simp] theorem State.drift_data (s : State) : s.drift.data = s.data := by unfold State.drift; split <;> rfl
@[simp] theorem State.drift_rs (s : State) : s.drift.rs = s.rs := by unfold State.drift; split <;> rfl
@[simp] theorem State.drift_e (s : State) : s.drift.e = s.e := by unfold State.drift; split <;> rfl
@[simp] theorem State.drift_mode (s : State) : s.drift.mode = s.mode := by unfold State.drift; split <;> rfl
@[simp] theorem State.drift_busy (s : State) : s.drift.busy = s.busy := by unfold State.drift; split <;> rfl
@[simp] theorem State.drift_plan (s : State) : s.drift.plan = s.plan := by unfold State.drift; split <;> rfl
@[simp] theorem State.drift_cv (s : State) : s.drift.cv = s.cv := by unfold State.drift; split <;> rfl
@[simp] theorem State.drift_cause (s : State) : s.drift.cause = s.cause := by unfold State.drift; split <;> rfl
@[simp] theorem State.drift_now (s : State) : s.drift.now = s.now := by unfold State.drift; split <;> rfl
@[simp] theorem State.drift_trace (s : State) : s.drift.trace = s.trace := by unfold State.drift; split <;> rfl
@[simp] theorem State.drift_initRun (s : State) : s.drift.initRun = s.initRun := by unfold State.drift; split <;> rfl
@[simp] theorem State.drift_epoch (s : State) : s.drift.epoch = s.epoch := by unfold State.drift; split <;> rfl
@[simp] theorem State.drift_schedule (s : State) : s.drift.schedule = s.schedule := by unfold State.drift; split <;> rfl
@[simp] theorem State.drift_rdata (s : State) : s.drift.rdata = s.rdata := by unfold State.drift; split <;> rfl
@[simp] theorem State.drift_cfg (s : State) : s.drift.cfg = s.cfg := by unfold State.drift; split <;> rfl

@[simp] theorem State.drift_fault (s : State) : s.drift.peer.fault = s.peer.fault := by
  unfold State.drift
  split <;> simp_all

theorem State.drift_sameBlock (s : State) : SameBlock s s.drift := by constructor <;> simp

theorem State.drift_peerKept (s : State) : PeerKept s s.drift :=
  ⟨by simp, fun h => by rw [State.drift_of_no_fault h]; exact ⟨rfl, rfl⟩⟩

/-- The peer of a drifted state is the same, or any peer with the same fault. -/
theorem State.drift_peer (s : State) :
    (s.peer.fault = none ∧ s.drift.peer = s.peer) ∨
    ∃ f, s.peer.fault = some f ∧ s.drift.peer = { Peer.any s.draws with fault := some f } := by
  cases h : s.peer.fault with
  | none => exact .inl ⟨rfl, by rw [State.drift_of_no_fault h]⟩
  | some f => exact .inr ⟨f, rfl, by rw [State.drift_of_fault h]; rfl⟩

@[simp] theorem Peer.any_wf (n : Nat) : Memory.wf (Peer.any n).ddram = true := by
  simp only [Peer.any, Memory.wf_ofFn]

theorem State.drift_wf {s : State} (h : Memory.wf s.peer.ddram = true) : Memory.wf s.drift.peer.ddram = true := by
  obtain ⟨-, hp⟩ | ⟨f, -, hp⟩ := s.drift_peer
  · rw [hp]; exact h
  · rw [hp]; exact Peer.any_wf _

@[simp] theorem done_next (s : State) : done s = .next s.drift := rfl

/-! ### Recording a violation -/

@[simp] theorem State.violate_data (s : State) (c : Violation) : (s.violate c).data = s.data := by
  unfold State.violate; split <;> rfl
@[simp] theorem State.violate_rs (s : State) (c : Violation) : (s.violate c).rs = s.rs := by
  unfold State.violate; split <;> rfl
@[simp] theorem State.violate_e (s : State) (c : Violation) : (s.violate c).e = s.e := by
  unfold State.violate; split <;> rfl
@[simp] theorem State.violate_mode (s : State) (c : Violation) : (s.violate c).mode = s.mode := by
  unfold State.violate; split <;> rfl
@[simp] theorem State.violate_busy (s : State) (c : Violation) : (s.violate c).busy = s.busy := by
  unfold State.violate; split <;> rfl
@[simp] theorem State.violate_plan (s : State) (c : Violation) : (s.violate c).plan = s.plan := by
  unfold State.violate; split <;> rfl
@[simp] theorem State.violate_cv (s : State) (c : Violation) : (s.violate c).cv = true := by
  unfold State.violate; split <;> rfl
@[simp] theorem State.violate_cause (s : State) (c : Violation) : (s.violate c).cause = if s.cv then s.cause else c.code := by
  unfold State.violate; split <;> rfl
@[simp] theorem State.violate_now (s : State) (c : Violation) : (s.violate c).now = s.now := by
  unfold State.violate; split <;> rfl
@[simp] theorem State.violate_trace (s : State) (c : Violation) : (s.violate c).trace = s.trace := by
  unfold State.violate; split <;> rfl
@[simp] theorem State.violate_initRun (s : State) (c : Violation) : (s.violate c).initRun = s.initRun := by
  unfold State.violate; split <;> rfl
@[simp] theorem State.violate_peer (s : State) (c : Violation) : (s.violate c).peer = s.peer := by
  unfold State.violate; split <;> rfl
@[simp] theorem State.violate_epoch (s : State) (c : Violation) : (s.violate c).epoch = s.epoch := by
  unfold State.violate; split <;> rfl
@[simp] theorem State.violate_schedule (s : State) (c : Violation) : (s.violate c).schedule = s.schedule := by
  unfold State.violate; split <;> rfl
@[simp] theorem State.violate_rdata (s : State) (c : Violation) : (s.violate c).rdata = s.rdata := by
  unfold State.violate; split <;> rfl
@[simp] theorem State.violate_draws (s : State) (c : Violation) : (s.violate c).draws = s.draws := by
  unfold State.violate; split <;> rfl
@[simp] theorem State.violate_cfg (s : State) (c : Violation) : (s.violate c).cfg = s.cfg := by
  unfold State.violate; split <;> rfl

@[simp] theorem State.violateIf_data (s : State) (c : Option Violation) : (s.violateIf c).data = s.data := by
  cases c <;> simp [State.violateIf]
@[simp] theorem State.violateIf_rs (s : State) (c : Option Violation) : (s.violateIf c).rs = s.rs := by
  cases c <;> simp [State.violateIf]
@[simp] theorem State.violateIf_e (s : State) (c : Option Violation) : (s.violateIf c).e = s.e := by
  cases c <;> simp [State.violateIf]
@[simp] theorem State.violateIf_mode (s : State) (c : Option Violation) : (s.violateIf c).mode = s.mode := by
  cases c <;> simp [State.violateIf]
@[simp] theorem State.violateIf_busy (s : State) (c : Option Violation) : (s.violateIf c).busy = s.busy := by
  cases c <;> simp [State.violateIf]
@[simp] theorem State.violateIf_plan (s : State) (c : Option Violation) : (s.violateIf c).plan = s.plan := by
  cases c <;> simp [State.violateIf]
@[simp] theorem State.violateIf_now (s : State) (c : Option Violation) : (s.violateIf c).now = s.now := by
  cases c <;> simp [State.violateIf]
@[simp] theorem State.violateIf_trace (s : State) (c : Option Violation) : (s.violateIf c).trace = s.trace := by
  cases c <;> simp [State.violateIf]
@[simp] theorem State.violateIf_initRun (s : State) (c : Option Violation) : (s.violateIf c).initRun = s.initRun := by
  cases c <;> simp [State.violateIf]
@[simp] theorem State.violateIf_peer (s : State) (c : Option Violation) : (s.violateIf c).peer = s.peer := by
  cases c <;> simp [State.violateIf]
@[simp] theorem State.violateIf_epoch (s : State) (c : Option Violation) : (s.violateIf c).epoch = s.epoch := by
  cases c <;> simp [State.violateIf]
@[simp] theorem State.violateIf_schedule (s : State) (c : Option Violation) : (s.violateIf c).schedule = s.schedule := by
  cases c <;> simp [State.violateIf]
@[simp] theorem State.violateIf_rdata (s : State) (c : Option Violation) : (s.violateIf c).rdata = s.rdata := by
  cases c <;> simp [State.violateIf]
@[simp] theorem State.violateIf_draws (s : State) (c : Option Violation) : (s.violateIf c).draws = s.draws := by
  cases c <;> simp [State.violateIf]
@[simp] theorem State.violateIf_cfg (s : State) (c : Option Violation) : (s.violateIf c).cfg = s.cfg := by
  cases c <;> simp [State.violateIf]

theorem causeOk_violate {cv : Bool} {cause : BitVec 3} (h : causeOk cv cause = true) (c : Violation) :
    causeOk true (if cv then cause else c.code) = true := by
  cases cv
  · cases c <;> rfl
  · simpa [causeOk] using h

/-! ### Accepting a request -/

theorem State.acceptRequest_busy {s : State} (h : s.busy = true) (b : Bool) (p : Plan) :
    s.acceptRequest b p = s := by rw [State.acceptRequest, if_pos h]

theorem State.acceptRequest_idle {s : State} (h : s.busy = false) (b : Bool) (p : Plan) :
    s.acceptRequest b p = (s.violateIf (acceptViolation b s.mode)).loadPlan b p := by
  rw [State.acceptRequest, if_neg (by simp [h])]

theorem State.acceptReserved_idle {s : State} (h : s.busy = false) :
    s.acceptReserved = (s.violate .reservedEncoding).loadPlan false [] := by
  rw [State.acceptReserved, if_neg (by simp [h])]

/-- A request's meaning is its acceptance with the plan `Expand` gives it. -/
theorem exec_request {i : Instr} {s : State} {p : Plan} (h : expand s.cfg i = some p) :
    exec i s = .next (s.acceptRequest (i == .init) p).drift := by
  cases i <;> simp only [expand, Option.some.injEq, reduceCtorEq] at h <;> subst h <;> rfl

/-! ### The sequencer -/

theorem State.popPlan_cons {s : State} {a : Action} {rest : Plan} (h : s.plan = a :: rest) :
    s.popPlan = ((s.setPlan rest).setBusy (if rest.isEmpty then false else s.busy)).setInitRun
      (if rest.isEmpty then false else s.initRun) := by
  unfold State.popPlan
  rw [h]

/-! ### The peer -/

theorem Peer.raise_none {p : Peer} (h : p.fault = none) (f : PeerFault) : p.raise f = { p with fault := some f } := by
  unfold Peer.raise
  rw [h]

/-- Raising sets a fault, the new one or the one already there, and changes nothing else. -/
theorem Peer.raise_cases (p : Peer) (f : PeerFault) :
    p.raise f = p ∧ p.fault.isSome = true ∨ p.raise f = { p with fault := some f } ∧ p.fault = none := by
  unfold Peer.raise
  cases h : p.fault <;> simp

@[simp] theorem Peer.raise_isSome (p : Peer) (f : PeerFault) : (p.raise f).fault.isSome = true := by
  unfold Peer.raise
  cases h : p.fault <;> simp [h]

@[simp] theorem Peer.raise_ddram (p : Peer) (f : PeerFault) : (p.raise f).ddram = p.ddram := by
  unfold Peer.raise; split <;> rfl

@[simp] theorem Peer.raise_lastE (p : Peer) (f : PeerFault) : (p.raise f).lastE = p.lastE := by
  unfold Peer.raise; split <;> rfl

theorem Peer.raise_sticky {p : Peer} {g : PeerFault} (h : p.fault = some g) (f : PeerFault) : p.raise f = p := by
  unfold Peer.raise
  rw [h]

/-- `Execute` is the fault OVERRUN, with the timing check on and the peer busy, or the byte's own effect. -/
theorem Peer.execute_cases (p : Peer) (timing : Bool) (t : Nat) (r : Bool) (b : Byte) (f : Peer → Peer) :
    (timing = true ∧ t < p.busyUntil ∧ p.execute timing t r b f = p.raise .overrun) ∨
    ((timing = false ∨ p.busyUntil ≤ t) ∧
      p.execute timing t r b f = { f p with busyUntil := t + p.execTime r b }) := by
  unfold Peer.execute
  by_cases h : timing = true ∧ t < p.busyUntil
  · exact .inl ⟨h.1, h.2, by rw [if_pos (by simp [h.1, h.2])]⟩
  · refine .inr ⟨?_, by rw [if_neg (by simpa using h)]⟩
    cases timing
    · exact .inl rfl
    · exact .inr (by simpa using h)

theorem Peer.execute_on_time {p : Peer} {timing : Bool} {t : Nat} (h : timing = false ∨ p.busyUntil ≤ t) (r : Bool)
    (b : Byte) (f : Peer → Peer) : p.execute timing t r b f = { f p with busyUntil := t + p.execTime r b } := by
  obtain ⟨ht, hb, -⟩ | ⟨-, he⟩ := p.execute_cases timing t r b f
  · rcases h with h | h
    · simp [h] at ht
    · omega
  · exact he

theorem State.transfer_next (s : State) (r : Bool) (b : Byte) (f : Peer → Peer) :
    s.transfer r b f = .next (s.setPeer (s.peer.execute s.cfg.peerTiming s.peerTime r b f)).drift := rfl

/-- A transfer changes nothing but the peer and the counter of free values. -/
theorem State.transfer_frame (s : State) (r : Bool) (b : Byte) (f : Peer → Peer) :
    ∃ t, s.transfer r b f = .next t ∧ SameBlock s t :=
  ⟨_, s.transfer_next r b f, by constructor <;> simp⟩

/-- A transfer's meaning is `Execute` of its byte: which byte and which effect each has. -/
theorem exec_transfer {i : Instr} {s : State} (h : expand s.cfg i = none) :
    ∃ r f, exec i s = s.transfer r (lcdByte i) f := by
  cases i <;> simp only [expand, reduceCtorEq] at h <;> exact ⟨_, _, rfl⟩

/-- No effect of a byte lets the peer's fault go, moves its view of E, or breaks DDRAM's canonical form. -/
structure Peer.Effect (f : Peer → Peer) : Prop where
  sticky : ∀ p g, p.fault = some g → (f p).fault = some g
  lastE : ∀ p, (f p).lastE = p.lastE
  memory : ∀ p, Memory.wf p.ddram = true → Memory.wf (f p).ddram = true

theorem Peer.raise_effect (g : PeerFault) : Peer.Effect fun p => p.raise g where
  sticky p k h := by rw [Peer.raise_sticky h]; exact h
  lastE p := by simp
  memory p h := by simpa using h

theorem Peer.setDdram_effect (a : BitVec 7) : Peer.Effect fun p => p.setDdram a where
  sticky p g h := by
    unfold Peer.setDdram; split
    · exact h
    · rw [Peer.raise_sticky h]; exact h
  lastE p := by unfold Peer.setDdram; split <;> simp
  memory p h := by unfold Peer.setDdram; split <;> simpa using h

theorem Peer.writeData_effect (b : Byte) : Peer.Effect fun p => p.writeData b where
  sticky p g h := by
    unfold Peer.writeData
    split
    · rw [Peer.raise_sticky h]; exact h
    · split
      · rw [Peer.raise_sticky h]; exact h
      · exact h
  lastE p := by unfold Peer.writeData; split <;> (try split) <;> simp
  memory p h := by
    unfold Peer.writeData
    split
    · simpa using h
    · split
      · simpa using h
      · exact Memory.wf_write h (by have := p.ac.isLt; simp only [Memory.size]; omega) b

/-- Every transfer's meaning is `Execute` around an effect of that kind. -/
theorem exec_transfer_effect {i : Instr} {s : State} (h : expand s.cfg i = none) :
    ∃ r f, Peer.Effect f ∧ exec i s = s.transfer r (lcdByte i) f := by
  cases i <;> simp only [expand, reduceCtorEq] at h <;> refine ⟨_, _, ?_, rfl⟩
  case lcdNone => exact Peer.raise_effect _
  case lcdShift => exact Peer.raise_effect _
  case lcdSetCgram => exact Peer.raise_effect _
  case lcdSetDdram => exact Peer.setDdram_effect _
  case lcdWriteData => exact Peer.writeData_effect _
  case lcdClearDisplay => exact ⟨fun _ _ h => h, fun _ => rfl, fun _ _ => rfl⟩
  all_goals exact ⟨fun _ _ h => h, fun _ => rfl, fun _ h => h⟩

/-- `Execute` around such an effect is such an effect. -/
theorem Peer.execute_effect {f : Peer → Peer} (hf : Peer.Effect f) (timing : Bool) (t : Nat) (r : Bool) (b : Byte) :
    Peer.Effect fun p => p.execute timing t r b f where
  sticky p g h := by
    obtain ⟨-, -, he⟩ | ⟨-, he⟩ := p.execute_cases timing t r b f
    · show (p.execute timing t r b f).fault = _
      rw [he, Peer.raise_sticky h]; exact h
    · show (p.execute timing t r b f).fault = _
      rw [he]; exact hf.sticky p g h
  lastE p := by
    obtain ⟨-, -, he⟩ | ⟨-, he⟩ := p.execute_cases timing t r b f
    · show (p.execute timing t r b f).lastE = _
      rw [he]; simp
    · show (p.execute timing t r b f).lastE = _
      rw [he]; exact hf.lastE p
  memory p h := by
    obtain ⟨-, -, he⟩ | ⟨-, he⟩ := p.execute_cases timing t r b f
    · show Memory.wf (p.execute timing t r b f).ddram = true
      rw [he]; simpa using h
    · show Memory.wf (p.execute timing t r b f).ddram = true
      rw [he]; exact hf.memory p h

/-- What a step leaves of the peer besides the bytes it executes. -/
structure PeerStep (s t : State) : Prop where
  sticky : ∀ g, s.peer.fault = some g → t.peer.fault = some g
  lastE : t.peer.fault = none → t.peer.lastE = s.peer.lastE
  memory : Memory.wf s.peer.ddram = true → Memory.wf t.peer.ddram = true

theorem PeerStep.trans {s t u : State} (h : PeerStep s t) (k : PeerStep t u) : PeerStep s u where
  sticky g hg := k.sticky g (h.sticky g hg)
  lastE hu := by
    have ht : t.peer.fault = none := by
      cases hf : t.peer.fault with
      | none => rfl
      | some g => rw [k.sticky g hf] at hu; cases hu
    rw [k.lastE hu, h.lastE ht]
  memory hm := k.memory (h.memory hm)

theorem State.drift_peerStep (s : State) : PeerStep s s.drift where
  sticky g hg := by simp [hg]
  lastE h := by rw [State.drift_of_no_fault (by simpa using h)]
  memory h := State.drift_wf h

theorem State.setPeer_peerStep {f : Peer → Peer} (hf : Peer.Effect f) (s : State) : PeerStep s (s.setPeer (f s.peer)) where
  sticky g hg := hf.sticky _ g hg
  lastE _ := hf.lastE _
  memory h := hf.memory _ h

/-- Executing a transfer answers a next state, changes nothing of the block and takes a step of the peer. -/
theorem exec_transfer_step {i : Instr} {s : State} (h : expand s.cfg i = none) :
    ∃ t, exec i s = .next t ∧ SameBlock s t ∧ PeerStep s t := by
  obtain ⟨r, f, hf, he⟩ := exec_transfer_effect h
  refine ⟨_, he.trans (s.transfer_next r _ f), by constructor <;> simp, ?_⟩
  exact (State.setPeer_peerStep (Peer.execute_effect hf _ _ _ _) s).trans (State.drift_peerStep _)

/-- A latch changes nothing of the block, keeps a fault, the view of E and DDRAM. -/
theorem State.latch_step (s : State) (n : Nibble) (r : Bool) :
    SameBlock s (s.latch n r).1 ∧ PeerStep s (s.latch n r).1 := by
  have hr : ∀ g, PeerStep s (s.raisePeer g) := fun g => State.setPeer_peerStep (Peer.raise_effect g) s
  unfold State.latch
  split
  · exact ⟨by constructor <;> rfl, hr _⟩
  · split
    · exact ⟨by constructor <;> rfl, ⟨fun _ h => h, fun _ => rfl, fun h => h⟩⟩
    · exact ⟨by constructor <;> rfl, ⟨fun _ h => h, fun _ => rfl, fun h => h⟩⟩
    · split
      · exact ⟨by constructor <;> rfl, hr _⟩
      · exact ⟨by constructor <;> rfl, ⟨fun _ h => h, fun _ => rfl, fun h => h⟩⟩

/-- A byte a latch completes is a transfer, never a request. -/
theorem decodeTransfer_expand (c : Config.Params) (r : Bool) (b : Byte) : expand c (decodeTransfer r b) = none := by
  unfold decodeTransfer
  repeat' split
  all_goals rfl

theorem State.latch_expand {s : State} {n : Nibble} {r : Bool} {i : Instr} (h : (s.latch n r).2 = some i)
    (c : Config.Params) : expand c i = none := by
  unfold State.latch at h
  split at h
  · cases h
  · split at h
    · cases h; exact decodeTransfer_expand _ _ _
    · cases h
    · split at h
      · cases h
      · cases h; exact decodeTransfer_expand _ _ _

/-- An event `E v` changes nothing of the block, and a peer without a fault has then seen the level `v`. -/
theorem State.peerSees_step (s : State) (v : Bool) (d : Nibble) (r : Bool) :
    SameBlock s (s.peerSees v d r).1 ∧
    (∀ g, s.peer.fault = some g → (s.peerSees v d r).1.peer.fault = some g) ∧
    ((s.peerSees v d r).1.peer.fault = none → (s.peerSees v d r).1.peer.lastE = v) ∧
    (Memory.wf s.peer.ddram = true → Memory.wf (s.peerSees v d r).1.peer.ddram = true) ∧
    ∀ i, (s.peerSees v d r).2 = some i → ∀ c, expand c i = none := by
  unfold State.peerSees
  simp only
  split
  · obtain ⟨hb, hp⟩ := (s.setPeer { s.peer with lastE := v }).latch_step d r
    refine ⟨?_, fun g hg => hp.sticky g hg, fun h => hp.lastE h, fun h => hp.memory h,
      fun i hi c => State.latch_expand hi c⟩
    exact ⟨hb.data, hb.rs, hb.e, hb.mode, hb.busy, hb.plan, hb.cv, hb.cause, hb.now, hb.trace, hb.initRun, hb.epoch,
      hb.schedule, hb.rdata, hb.cfg⟩
  · exact ⟨by constructor <;> rfl, fun _ h => h, fun _ => rfl, fun h => h, fun i hi => by cases hi⟩

/-! ### The cases of an event on E and of a latch -/

/-- An event the peer does not latch on: it has seen the level (R182). -/
theorem State.peerSees_quiet {s : State} {v : Bool} (h : latchesOn s.cfg.latchEdge s.peer.lastE v = false) (d : Nibble)
    (r : Bool) : s.peerSees v d r = (s.setPeer { s.peer with lastE := v }, none) := by
  unfold State.peerSees
  rw [if_neg (by simp [h])]

/-- An event the peer latches on (R182). -/
theorem State.peerSees_latch {s : State} {v : Bool} (h : latchesOn s.cfg.latchEdge s.peer.lastE v = true) (d : Nibble)
    (r : Bool) : s.peerSees v d r = (s.setPeer { s.peer with lastE := v }).latch d r := by
  unfold State.peerSees
  rw [if_pos h]

/-- A latch within 15000 µs of power-on, where the timing check is on (R197). -/
theorem State.latch_early {s : State} (ht : s.cfg.peerTiming = true) (he : s.peerTime < latchEarliest) (n : Nibble)
    (r : Bool) : s.latch n r = (s.raisePeer .overrun, none) := by
  unfold State.latch
  rw [if_pos (by simp [ht, he])]

/-- The timing check lets a latch through. -/
theorem State.latch_check {s : State} (h : s.cfg.peerTiming = false ∨ latchEarliest ≤ s.peerTime) :
    ¬ (s.cfg.peerTiming && decide (s.peerTime < latchEarliest)) = true := by
  rcases h with h | h
  · simp [h]
  · simp only [Bool.and_eq_true, decide_eq_true_eq, not_and, not_lt]
    exact fun _ => h

/-- A latch in 8-bit mode (R183). -/
theorem State.latch_eight {s : State} (h : s.cfg.peerTiming = false ∨ latchEarliest ≤ s.peerTime)
    (hi : s.peer.ifmode = .eight) (n : Nibble) (r : Bool) :
    s.latch n r = (s.setDraws (s.draws + 1), some (decodeTransfer r (n ++ freeNibble s.draws))) := by
  unfold State.latch
  rw [if_neg (State.latch_check h), hi]

/-- A latch of a high nibble (R184). -/
theorem State.latch_hi {s : State} (h : s.cfg.peerTiming = false ∨ latchEarliest ≤ s.peerTime)
    (hi : s.peer.ifmode = .four) (hp : s.peer.phase = .hi) (n : Nibble) (r : Bool) :
    s.latch n r = (s.setPeer { s.peer with hiNib := n, hiRS := r, phase := .lo }, none) := by
  unfold State.latch
  rw [if_neg (State.latch_check h), hi, hp]

/-- A latch of a low nibble under the RS of its high nibble (R184). -/
theorem State.latch_lo {s : State} (h : s.cfg.peerTiming = false ∨ latchEarliest ≤ s.peerTime)
    (hi : s.peer.ifmode = .four) (hp : s.peer.phase = .lo) (n : Nibble) {r : Bool} (hr : s.peer.hiRS = r) :
    s.latch n r = (s.setPeer { s.peer with phase := .hi }, some (decodeTransfer r (s.peer.hiNib ++ n))) := by
  unfold State.latch
  rw [if_neg (State.latch_check h), hi, hp]
  exact if_neg (by simp [hr])

/-- A latch of a low nibble under another RS (R185). -/
theorem State.latch_rsChanged {s : State} (h : s.cfg.peerTiming = false ∨ latchEarliest ≤ s.peerTime)
    (hi : s.peer.ifmode = .four) (hp : s.peer.phase = .lo) (n : Nibble) {r : Bool} (hr : s.peer.hiRS ≠ r) :
    s.latch n r = (s.raisePeer .rsChanged, none) := by
  unfold State.latch
  rw [if_neg (State.latch_check h), hi, hp]
  exact if_pos (Ne.symm hr)

end Sys2Proof.Machine
end

