-- ==== Sys2Proof/Laws/Step.lean ====
section
/-! SUPPORT. What a step can do: the block's step once for all actions, and an inversion of `step` by the turn. -/

namespace Sys2Proof.Machine

/-- The data nibble after an action (R101). -/
def Action.onData : Action → Nibble → Nibble
  | .setData n, _ => n
  | .setRs _, d => d
  | .setE _, d => d
  | .wait _, d => d
  | .setMode _, d => d

/-- Register-select after an action (R102). -/
def Action.onRs : Action → Bool → Bool
  | .setRs v, _ => v
  | .setData _, r => r
  | .setE _, r => r
  | .wait _, r => r
  | .setMode _, r => r

/-- Enable after an action (R103). -/
def Action.onE : Action → Bool → Bool
  | .setE v, _ => v
  | .setData _, e => e
  | .setRs _, e => e
  | .wait _, e => e
  | .setMode _, e => e

/-- The mode after an action (R105). -/
def Action.onMode : Action → Mode → Mode
  | .setMode m, _ => m
  | .setData _, m => m
  | .setRs _, m => m
  | .setE _, m => m
  | .wait _, m => m

/-- What the block's step with action `a` and remaining plan `rest` makes of the state (R101 to R105, R111). -/
structure BlockStepped (s : State) (a : Action) (rest : Plan) (t : State) : Prop where
  data : t.data = a.onData s.data
  rs : t.rs = a.onRs s.rs
  e : t.e = a.onE s.e
  mode : t.mode = a.onMode s.mode
  busy : t.busy = if rest.isEmpty then false else s.busy
  plan : t.plan = rest
  cv : t.cv = s.cv
  cause : t.cause = s.cause
  now : s.now + a.bound ≤ t.now
  trace : t.trace = s.trace ++ a.event.toList.map fun ev => (s.now, ev)
  initRun : t.initRun = if rest.isEmpty then false else s.initRun
  epoch : t.epoch = s.epoch
  schedule : t.schedule = s.schedule
  rdata : t.rdata = s.rdata
  cfg : t.cfg = s.cfg
  sticky : ∀ g, s.peer.fault = some g → t.peer.fault = some g
  lastE : t.peer.fault = none → t.peer.lastE = a.onE s.peer.lastE
  memory : Memory.wf s.peer.ddram = true → Memory.wf t.peer.ddram = true

theorem BlockStepped.drift {s t : State} {a : Action} {rest : Plan} (h : BlockStepped s a rest t) :
    BlockStepped s a rest t.drift := by
  have hp := State.drift_peerStep t
  exact ⟨by simpa using h.data, by simpa using h.rs, by simpa using h.e, by simpa using h.mode, by simpa using h.busy,
    by simpa using h.plan, by simpa using h.cv, by simpa using h.cause, by simpa using h.now, by simpa using h.trace,
    by simpa using h.initRun, by simpa using h.epoch, by simpa using h.schedule, by simpa using h.rdata, by simpa using h.cfg,
    fun g hg => hp.sticky g (h.sticky g hg), fun hf => (hp.lastE hf).trans (h.lastE (by simpa using hf)),
    fun hm => hp.memory (h.memory hm)⟩

/-- The block's items after the action itself (R101 to R105), its head dropped. -/
def State.performed (s : State) (a : Action) (rest : Plan) : State :=
  { s with
    data := a.onData s.data
    rs := a.onRs s.rs
    e := a.onE s.e
    mode := a.onMode s.mode
    trace := s.trace ++ a.event.toList.map (fun ev => (s.now, ev))
    plan := rest
    busy := if rest.isEmpty then false else s.busy
    initRun := if rest.isEmpty then false else s.initRun }

/-- `u` is `s` after the action itself, before its time has passed. -/
structure Performed (s : State) (a : Action) (rest : Plan) (u : State) : Prop where
  block : SameBlock (s.performed a rest) u
  sticky : ∀ g, s.peer.fault = some g → u.peer.fault = some g
  lastE : u.peer.fault = none → u.peer.lastE = a.onE s.peer.lastE
  memory : Memory.wf s.peer.ddram = true → Memory.wf u.peer.ddram = true

theorem Performed.passTime {s u : State} {a : Action} {rest : Plan} (h : Performed s a rest u) :
    BlockStepped s a rest (u.passTime a.bound) where
  data := h.block.data
  rs := h.block.rs
  e := h.block.e
  mode := h.block.mode
  busy := h.block.busy
  plan := h.block.plan
  cv := h.block.cv
  cause := h.block.cause
  now := by
    have hn : u.now = s.now := h.block.now
    simp only [State.passTime_now, hn]
    omega
  trace := h.block.trace
  initRun := h.block.initRun
  epoch := h.block.epoch
  schedule := h.block.schedule
  rdata := h.block.rdata
  cfg := h.block.cfg
  sticky := h.sticky
  lastE := h.lastE
  memory := h.memory

theorem Performed.trans {s u w : State} {a : Action} {rest : Plan} (h : Performed s a rest u) (hb : SameBlock u w)
    (hp : PeerStep u w) : Performed s a rest w where
  block := ⟨hb.data.trans h.block.data, hb.rs.trans h.block.rs, hb.e.trans h.block.e, hb.mode.trans h.block.mode,
    hb.busy.trans h.block.busy, hb.plan.trans h.block.plan, hb.cv.trans h.block.cv, hb.cause.trans h.block.cause,
    hb.now.trans h.block.now, hb.trace.trans h.block.trace, hb.initRun.trans h.block.initRun, hb.epoch.trans h.block.epoch,
    hb.schedule.trans h.block.schedule, hb.rdata.trans h.block.rdata, hb.cfg.trans h.block.cfg⟩
  sticky g hg := hp.sticky g (h.sticky g hg)
  lastE hw := by
    refine (hp.lastE hw).trans (h.lastE ?_)
    cases hf : u.peer.fault with
    | none => rfl
    | some g => rw [hp.sticky g hf] at hw; cases hw
  memory hm := hp.memory (h.memory hm)

/-- The block's step performs the head action, whatever it is, and always answers a next state (R111). -/
theorem blockMove_step {s : State} {a : Action} {rest : Plan} (h : s.plan = a :: rest) :
    ∃ t, runMove s.blockMove = .next t ∧ BlockStepped s a rest t := by
  have hpop := State.popPlan_cons h
  unfold State.blockMove
  rw [h]
  cases a with
  | setData n =>
    refine ⟨_, rfl, (Performed.passTime ⟨?_, ?_, ?_, ?_⟩ : BlockStepped s (.setData n) rest (State.passTime _ 0)).drift⟩
    · rw [hpop]; constructor <;> rfl
    all_goals rw [hpop]; simp [Action.onE]
  | setRs v =>
    refine ⟨_, rfl, (Performed.passTime ⟨?_, ?_, ?_, ?_⟩ : BlockStepped s (.setRs v) rest (State.passTime _ 0)).drift⟩
    · rw [hpop]; constructor <;> rfl
    all_goals rw [hpop]; simp [Action.onE]
  | wait d =>
    refine ⟨_, rfl, (Performed.passTime ⟨?_, ?_, ?_, ?_⟩ : BlockStepped s (.wait d) rest (State.passTime _ d)).drift⟩
    · rw [hpop]; constructor <;> simp [State.performed, Action.onData, Action.onRs, Action.onE, Action.onMode, Action.event]
    all_goals rw [hpop]; simp [Action.onE]
  | setMode m =>
    refine ⟨_, rfl, (Performed.passTime ⟨?_, ?_, ?_, ?_⟩ : BlockStepped s (.setMode m) rest (State.passTime _ 0)).drift⟩
    · rw [hpop]; constructor <;> simp [State.performed, Action.onData, Action.onRs, Action.onE, Action.onMode, Action.event]
    all_goals rw [hpop]; simp [Action.onE]
  | setE v =>
    obtain ⟨hb, hs, hl, hm, hx⟩ := (s.popPlan.driveE v).peerSees_step v s.data s.rs
    have hperf : Performed s (.setE v) rest ((s.popPlan.driveE v).peerSees v s.data s.rs).1 := by
      refine ⟨?_, fun g hg => hs g ?_, hl, fun hg => hm ?_⟩
      · rw [hpop] at hb ⊢; exact hb
      · rw [hpop]; exact hg
      · rw [hpop]; exact hg
    dsimp only
    generalize (s.popPlan.driveE v).peerSees v s.data s.rs = r at hperf hx ⊢
    obtain ⟨u, oi⟩ := r
    cases oi with
    | none => exact ⟨_, rfl, hperf.passTime.drift⟩
    | some i =>
      obtain ⟨t, ht, htb, htp⟩ := exec_transfer_step (s := u) (hx i rfl u.cfg)
      exact ⟨t.passTime 0, by simp only [runMove, ht, afterTransfer], (hperf.trans htb htp).passTime⟩

/-- The block's step with a SetE at the head of the plan: the action itself, what the peer makes of it, and the time of
the step (R103, R111, R182). -/
theorem blockMove_setE {s : State} {v : Bool} {rest : Plan} (h : s.plan = .setE v :: rest) :
    s.blockMove =
      match (s.performed (.setE v) rest).peerSees v s.data s.rs with
      | (u, none) => .ends (u.passTime 0).drift
      | (u, some i) => .runTimed i u := by
  have hperf : s.popPlan.driveE v = s.performed (.setE v) rest := by rw [State.popPlan_cons h]; rfl
  unfold State.blockMove
  rw [h, ← hperf]
  all_goals rfl

/-- The block's step with any other action at the head of the plan (R101, R102, R104, R105, R111). -/
theorem blockMove_other {s : State} {a : Action} {rest : Plan} (h : s.plan = a :: rest) (ha : ∀ v, a ≠ .setE v) :
    s.blockMove = .ends ((s.performed a rest).passTime a.bound).drift := by
  have hpop := State.popPlan_cons h
  unfold State.blockMove
  rw [h]
  cases a with
  | setE v => exact absurd rfl (ha v)
  | setData n => dsimp only; rw [hpop]; rfl
  | setRs v => dsimp only; rw [hpop]; rfl
  | wait d =>
    dsimp only
    rw [hpop, show s.performed (.wait d) rest = ((s.setPlan rest).setBusy (if rest.isEmpty then false else s.busy)).setInitRun
        (if rest.isEmpty then false else s.initRun) by
      simp [State.performed, Action.event, Action.onData, Action.onRs, Action.onE, Action.onMode]; rfl]
    rfl
  | setMode m =>
    dsimp only
    rw [hpop, show s.performed (.setMode m) rest =
      (((s.setPlan rest).setBusy (if rest.isEmpty then false else s.busy)).setInitRun
        (if rest.isEmpty then false else s.initRun)).setMode m by
      simp [State.performed, Action.event, Action.onData, Action.onRs, Action.onE, Action.onMode]; rfl]
    rfl

/-- When the next step is the block's and it has a plan, the step is the block's, its own turn spent (R111, R112). -/
theorem step_eq_blockMove {s : State} (hm : s.blockMoves = true) (hp : s.plan ≠ []) :
    step s = runMove (s.setSchedule s.turnTaken).blockMove := by
  unfold step State.move
  unfold State.blockMoves at hm
  unfold State.turnTaken
  cases hs : s.schedule with
  | nil =>
    dsimp only
    rw [if_neg (by simpa using hp), ← hs]
    rfl
  | cons q rest =>
    rw [hs] at hm
    cases q with
    | block => dsimp only; rw [State.popTurn, hs]; rfl
    | reset => cases hm
    | powerCycle => cases hm
    | host h =>
      cases h with
      | idle =>
        dsimp only at hm ⊢
        rw [if_pos hm, ← hs]
        rfl
      | access a =>
        simp only [Bool.and_eq_true, beq_iff_eq] at hm
        obtain ⟨⟨⟨hb, hw⟩, hy⟩, ho⟩ := hm
        obtain ⟨w, hw⟩ := Option.isSome_iff_exists.mp hw
        dsimp only
        unfold State.accessMove State.requestMove
        rw [if_pos (by simp [accessFits, hy, ho]), hw]
        dsimp only
        rw [if_pos ho, if_pos hb, ← hs]
        rfl

/-- When the next step is the block's, it performs the head action with the block's turn spent (R111). -/
theorem step_block {s : State} {a : Action} {rest : Plan} (hm : s.blockMoves = true) (hp : s.plan = a :: rest) :
    ∃ t, step s = .next t ∧ BlockStepped (s.setSchedule s.turnTaken) a rest t := by
  obtain ⟨t, ht, h⟩ := blockMove_step (s := s.setSchedule s.turnTaken) hp
  exact ⟨t, (step_eq_blockMove hm (by simp [hp])).trans ht, h⟩

/-- The same where the action is no SetE: the state it leads to, written out. -/
theorem step_block_other {s : State} {a : Action} {rest : Plan} (hm : s.blockMoves = true) (hp : s.plan = a :: rest)
    (ha : ∀ v, a ≠ .setE v) :
    step s = .next (((s.setSchedule s.turnTaken).performed a rest).passTime a.bound).drift := by
  rw [step_eq_blockMove hm (by simp [hp]), blockMove_other (s := s.setSchedule s.turnTaken) hp ha, runMove]

@[simp] theorem State.headTaken_data (s : State) (p : Plan) : (s.headTaken p).data = s.data := rfl
@[simp] theorem State.headTaken_rs (s : State) (p : Plan) : (s.headTaken p).rs = s.rs := rfl
@[simp] theorem State.headTaken_e (s : State) (p : Plan) : (s.headTaken p).e = s.e := rfl
@[simp] theorem State.headTaken_mode (s : State) (p : Plan) : (s.headTaken p).mode = s.mode := rfl
@[simp] theorem State.headTaken_cv (s : State) (p : Plan) : (s.headTaken p).cv = s.cv := rfl
@[simp] theorem State.headTaken_cause (s : State) (p : Plan) : (s.headTaken p).cause = s.cause := rfl
@[simp] theorem State.headTaken_now (s : State) (p : Plan) : (s.headTaken p).now = s.now := rfl
@[simp] theorem State.headTaken_trace (s : State) (p : Plan) : (s.headTaken p).trace = s.trace := rfl
@[simp] theorem State.headTaken_peer (s : State) (p : Plan) : (s.headTaken p).peer = s.peer := rfl
@[simp] theorem State.headTaken_epoch (s : State) (p : Plan) : (s.headTaken p).epoch = s.epoch := rfl
@[simp] theorem State.headTaken_rdata (s : State) (p : Plan) : (s.headTaken p).rdata = s.rdata := rfl
@[simp] theorem State.headTaken_draws (s : State) (p : Plan) : (s.headTaken p).draws = s.draws := rfl
@[simp] theorem State.headTaken_cfg (s : State) (p : Plan) : (s.headTaken p).cfg = s.cfg := rfl
@[simp] theorem State.headTaken_plan (s : State) (p : Plan) : (s.headTaken p).plan = p := rfl
@[simp] theorem State.headTaken_schedule (s : State) (p : Plan) : (s.headTaken p).schedule = s.turnTaken := rfl

/-- A block step changes nothing of the block but what the action does, and time. -/
theorem BlockStepped.sameBlock {s t : State} {a : Action} {rest : Plan}
    (h : BlockStepped (s.setSchedule s.turnTaken) a rest t) :
    SameBlock { s.headTaken rest with
      data := a.onData s.data, rs := a.onRs s.rs, e := a.onE s.e, mode := a.onMode s.mode
      trace := s.trace ++ a.event.toList.map fun ev => (s.now, ev), now := t.now } t :=
  ⟨h.data, h.rs, h.e, h.mode, h.busy, h.plan, h.cv, h.cause, rfl, h.trace, h.initRun, h.epoch, h.schedule, h.rdata,
    h.cfg⟩

/-! ### A peer with a fault is redrawn in every step -/

/-- A peer that has a fault has a free value in every other field (R180). -/
def State.Drawn (s : State) : Prop :=
  ∀ f, s.peer.fault = some f → ∃ n, s.peer = { Peer.any n with fault := some f }

theorem State.drift_drawn (s : State) : s.drift.Drawn := by
  intro f hf
  refine ⟨s.draws, ?_⟩
  rw [State.drift_of_fault (by simpa using hf)]
  rfl

theorem State.powerCycle_fault (s : State) : s.powerCycle.peer.fault = none := by
  simp only [State.powerCycle, Peer.powerOn]
  split <;> rfl

/-- Every meaning ends in `drift`. -/
theorem exec_drawn {i : Instr} {s t : State} (h : exec i s = .next t) : t.Drawn := by
  cases he : expand s.cfg i with
  | none =>
    obtain ⟨r, f, hf⟩ := exec_transfer (s := s) he
    rw [hf, State.transfer_next] at h
    cases h
    exact State.drift_drawn _
  | some p =>
    rw [exec_request he] at h
    cases h
    exact State.drift_drawn _

theorem afterTransfer_drawn {o : Host.Outcome State Fault Refusal} (ho : ∀ t, o = .next t → t.Drawn) {t : State}
    (h : afterTransfer o = .next t) : t.Drawn := by
  cases o with
  | next u => cases h; exact ho u rfl
  | fault r => cases h
  | refused r => cases h

theorem blockMove_drawn {s t : State} (h : runMove s.blockMove = .next t) : t.Drawn := by
  unfold State.blockMove at h
  split at h
  case h_4 =>
    split at h
    · cases h; exact State.drift_drawn _
    · exact afterTransfer_drawn (fun _ => exec_drawn) h
  all_goals cases h; exact State.drift_drawn _

theorem resetMove_drawn {s t : State} (h : runMove s.resetMove = .next t) : t.Drawn := by
  unfold State.resetMove at h
  dsimp only at h
  split at h
  · cases h; exact State.drift_drawn _
  · exact exec_drawn h

/-- After every step, a peer that has a fault is drawn anew (R180, I-28). -/
theorem step_drawn {s t : State} (h : step s = .next t) : t.Drawn := by
  unfold step State.move at h
  split at h
  · split at h
    · cases h; exact State.drift_drawn _
    · exact blockMove_drawn h
  · exact blockMove_drawn h
  · exact resetMove_drawn h
  · cases h
    intro f hf
    rw [State.powerCycle_fault] at hf
    cases hf
  · split at h
    · exact blockMove_drawn h
    · cases h; exact State.drift_drawn _
  · unfold State.accessMove at h
    split at h
    · split at h
      · cases h; exact State.drift_drawn _
      · split at h
        · unfold State.requestMove at h
          split at h
          · exact blockMove_drawn h
          · split at h
            · exact exec_drawn h
            · cases h; exact State.drift_drawn _
        · cases h; exact State.drift_drawn _
    · cases h

/-! ### The whole step -/

/-- A word that decodes is a request (R73). -/
theorem decodeReq_expand {w : Word} {i : Instr} (h : decodeReq w = .ok i) (c : Config.Params) :
    ∃ p, expand c i = some p := by
  unfold decodeReq mustBeZero at h
  repeat' split at h
  all_goals cases h
  all_goals exact ⟨_, rfl⟩

/-- What the reset event makes of the state (R240): the block at its reset values, the LCD with its time going on. -/
structure ResetStepped (s t : State) : Prop where
  data : t.data = 0
  rs : t.rs = false
  e : t.e = true
  mode : t.mode = .uninit
  busy : t.busy = false
  plan : t.plan = []
  cv : t.cv = false
  cause : t.cause = 0
  now : t.now = 0
  trace : t.trace = []
  initRun : t.initRun = false
  epoch : t.epoch = s.peerTime
  schedule : t.schedule = s.schedule
  rdata : t.rdata = s.rdata
  cfg : t.cfg = s.cfg
  sticky : ∀ g, s.peer.fault = some g → t.peer.fault = some g
  lastE : t.peer.fault = none → t.peer.lastE = true
  memory : Memory.wf s.peer.ddram = true → Memory.wf t.peer.ddram = true

theorem resetStepped_of_sameBlock {s u : State} {k : Nat} (hb : SameBlock (s.resetBlock.setDraws k) u)
    (hs : ∀ g, s.peer.fault = some g → u.peer.fault = some g) (hl : u.peer.fault = none → u.peer.lastE = true)
    (hm : Memory.wf s.peer.ddram = true → Memory.wf u.peer.ddram = true) : ResetStepped s u :=
  ⟨hb.data, hb.rs, hb.e, hb.mode, hb.busy, hb.plan, hb.cv, hb.cause, hb.now, hb.trace, hb.initRun, hb.epoch,
    hb.schedule, hb.rdata, hb.cfg, hs, hl, hm⟩

theorem ResetStepped.trans {s u w : State} (h : ResetStepped s u) (hb : SameBlock u w) (hp : PeerStep u w) :
    ResetStepped s w where
  data := hb.data.trans h.data
  rs := hb.rs.trans h.rs
  e := hb.e.trans h.e
  mode := hb.mode.trans h.mode
  busy := hb.busy.trans h.busy
  plan := hb.plan.trans h.plan
  cv := hb.cv.trans h.cv
  cause := hb.cause.trans h.cause
  now := hb.now.trans h.now
  trace := hb.trace.trans h.trace
  initRun := hb.initRun.trans h.initRun
  epoch := hb.epoch.trans h.epoch
  schedule := hb.schedule.trans h.schedule
  rdata := hb.rdata.trans h.rdata
  cfg := hb.cfg.trans h.cfg
  sticky g hg := hp.sticky g (h.sticky g hg)
  lastE hw := by
    refine (hp.lastE hw).trans (h.lastE ?_)
    cases hf : u.peer.fault with
    | none => rfl
    | some g => rw [hp.sticky g hf] at hw; cases hw
  memory hm := hp.memory (h.memory hm)

/-- The reset event always answers a next state (R240). -/
theorem resetMove_step (s : State) : ∃ t, runMove s.resetMove = .next t ∧ ResetStepped s t := by
  unfold State.resetMove
  dsimp only
  obtain ⟨hb, hs, hl, hm, hx⟩ := (s.resetBlock.setDraws (s.draws + 1)).peerSees_step true
    (if freeBit s.draws 2 then s.data else 0) (if freeBit s.draws 3 then s.rs else false)
  have hr := resetStepped_of_sameBlock hb hs hl hm
  generalize (s.resetBlock.setDraws (s.draws + 1)).peerSees true
    (if freeBit s.draws 2 then s.data else 0) (if freeBit s.draws 3 then s.rs else false) = r at hr hx ⊢
  obtain ⟨u, oi⟩ := r
  cases oi with
  | none => exact ⟨_, rfl, hr.trans u.drift_sameBlock u.drift_peerStep⟩
  | some i =>
    obtain ⟨t, ht, htb, htp⟩ := exec_transfer_step (s := u) (hx i rfl u.cfg)
    exact ⟨t, ht, hr.trans htb htp⟩

/-- A state or the same with the head of its schedule gone. -/
def PoppedOrSame (s s' : State) : Prop := s' = s ∨ s' = s.popTurn

/-- Everything a step can be. -/
inductive StepCase (s t : State) : Prop
  /-- The block, whose move it is, performs the head action, with its own turn spent or a held host turn kept. -/
  | block (hm : s.blockMoves = true) (s' : State) (hs : PoppedOrSame s s') (a : Action) (rest : Plan)
      (hp : s.plan = a :: rest) (h : BlockStepped s' a rest t)
  /-- The host idles. -/
  | idle (s' : State) (hs : PoppedOrSame s s') (h : t = (s'.passTime 0).drift)
  /-- A request is accepted. -/
  | request (i : Instr) (p : Plan) (hb : s.busy = false) (he : expand s.cfg i = some p)
      (h : t = (s.popTurn.acceptRequest (i == .init) p).drift)
  /-- A reserved word is accepted. -/
  | reserved (hb : s.busy = false) (h : t = s.popTurn.acceptReserved.drift)
  /-- The host reads a register. -/
  | read (o : Nat) (h : t = (s.popTurn.readRegister o).drift)
  /-- A write to STATUS, or a turn of a block that has no step. -/
  | pass (s' : State) (hs : PoppedOrSame s s') (h : t = s'.drift)
  | reset (rest : List Turn) (hq : s.schedule = .reset :: rest) (h : ResetStepped s.popTurn t)
  | powerCycle (rest : List Turn) (hq : s.schedule = .powerCycle :: rest) (h : t = s.popTurn.powerCycle)

/-- A block move answers a next state that is a block step, or nothing where the plan is empty. -/
theorem blockMove_case {s s' : State} (hm : s.blockMoves = true) (hs : PoppedOrSame s s') :
    ∃ t, runMove s'.blockMove = .next t ∧ StepCase s t := by
  have hplan : s'.plan = s.plan := by obtain rfl | rfl := hs <;> rfl
  cases hp : s'.plan with
  | nil =>
    refine ⟨s'.drift, ?_, .pass s' hs rfl⟩
    unfold State.blockMove
    rw [hp]
    rfl
  | cons a rest =>
    obtain ⟨t, ht, hb⟩ := blockMove_step hp
    exact ⟨t, ht, .block hm s' hs a rest (hplan ▸ hp) hb⟩

/-- A step answers a next state, which is one of the cases, unless it is refused for a bad access (R51, R220). -/
theorem step_total (s : State) :
    (∃ t, step s = .next t ∧ StepCase s t ∧ s.asksBadAccess = false) ∨
    (s.asksBadAccess = true ∧ ∃ o b, step s = .refused (.hostAccess o b)) := by
  have hself : PoppedOrSame s s := .inl rfl
  have hpop : PoppedOrSame s s.popTurn := .inr rfl
  unfold step State.move State.asksBadAccess
  cases hq : s.schedule with
  | nil =>
    refine .inl ?_
    dsimp only
    split
    · exact ⟨_, rfl, .idle s hself rfl, rfl⟩
    · obtain ⟨t, ht, hc⟩ := blockMove_case (by rw [State.blockMoves, hq]) hself
      exact ⟨t, ht, hc, rfl⟩
  | cons q rest =>
    cases q with
    | block =>
      obtain ⟨t, ht, hc⟩ := blockMove_case (by rw [State.blockMoves, hq]) hpop
      exact .inl ⟨t, ht, hc, rfl⟩
    | reset =>
      obtain ⟨t, ht, hr⟩ := resetMove_step s.popTurn
      exact .inl ⟨t, ht, .reset rest hq hr, rfl⟩
    | powerCycle => exact .inl ⟨_, rfl, .powerCycle rest hq rfl, rfl⟩
    | host h =>
      cases h with
      | idle =>
        refine .inl ?_
        dsimp only
        split
        · rename_i hb
          obtain ⟨t, ht, hc⟩ := blockMove_case (by rw [State.blockMoves, hq]; exact hb) hself
          exact ⟨t, ht, hc, rfl⟩
        · exact ⟨_, rfl, .idle s.popTurn hpop rfl, rfl⟩
      | access a =>
        dsimp only
        unfold State.accessMove
        cases hf : accessFits a.offset a.bytes with
        | false => exact .inr ⟨rfl, _, _, rfl⟩
        | true =>
          refine .inl ?_
          rw [if_pos rfl]
          cases hw : a.write with
          | none => exact ⟨_, rfl, .read _ rfl, rfl⟩
          | some w =>
            dsimp only
            split
            · rename_i ho
              unfold State.requestMove
              cases hb : s.busy with
              | true =>
                rw [if_pos rfl]
                have hm : s.blockMoves = true := by
                  rw [State.blockMoves, hq]
                  simp only [accessFits, Bool.and_eq_true] at hf
                  simp [hb, hw, ho, hf.1]
                obtain ⟨t, ht, hc⟩ := blockMove_case hm hself
                exact ⟨t, ht, hc, rfl⟩
              | false =>
                rw [if_neg (by simp)]
                cases hd : decodeReq w with
                | error e => exact ⟨_, rfl, .reserved hb rfl, rfl⟩
                | ok i =>
                  obtain ⟨p, hp⟩ := decodeReq_expand hd s.cfg
                  exact ⟨_, exec_request (s := s.popTurn) hp, .request i p hb hp rfl, rfl⟩
            · exact ⟨_, rfl, .pass _ hpop rfl, rfl⟩

/-- Inversion of a step. -/
theorem step_cases {s t : State} (h : step s = .next t) : StepCase s t := by
  obtain ⟨u, hu, hc, -⟩ | ⟨-, o, b, hr⟩ := step_total s
  · rw [h] at hu
    cases hu
    exact hc
  · rw [h] at hr
    cases hr

/-- A run of any machine is its first step and the run from there. -/
theorem run_succ (M : Host.Core) {s t : M.State} (h : M.step s = .next t) (n : Nat) : M.run (n + 1) s = M.run n t := by
  rw [Host.Core.run, h]

/-- A run of this machine is its first step and the run from there. -/
theorem core_run_succ {s t : State} (h : step s = .next t) (n : Nat) : core.run (n + 1) s = core.run n t :=
  run_succ core h n

end Sys2Proof.Machine
end

