-- ==== Sys2Proof/Laws/Init.lean ====
section
/-! SUPPORT. The initialisation state machine (41_initialize.md R122): what the tails of INIT's plan are, and the mode along
them. -/

namespace Sys2Proof.Machine

@[simp] theorem initPlan_length (c : Config.Params) : (initPlan c).length = 93 := rfl

/-- INIT is in BOOT8 as long as its SetMode(READY), the 62nd action from the end, is to come. -/
theorem initStateFrom_mode (c : Config.Params) (left : Nat) :
    (initStateFrom c left initOrder).mode = if 61 < left then .boot8 else .ready := by
  simp only [initOrder, initStateFrom]
  show InitState.mode (if 90 < left then _ else if 83 < left then _ else if 76 < left then _ else if 69 < left then _ else
    if 61 < left then _ else if 46 < left then _ else if 31 < left then _ else if 16 < left then _ else
    if 0 < left then _ else _) = _
  repeat' split
  all_goals first | rfl | omega

/-- With nothing more left than the segments after `q`, the state is one of those. -/
theorem initStateFrom_append (c : Config.Params) (left : Nat) : ∀ (before : List InitState) {l : List InitState},
    left ≤ (l.flatMap (initSegment c)).length → initStateFrom c left (before ++ l) = initStateFrom c left l
  | [], _, _ => rfl
  | b :: before, l, h => by
    rw [List.cons_append, initStateFrom, if_neg, initStateFrom_append c left before h]
    simp only [List.flatMap_append, List.length_append]
    omega

/-- With some of the segment of `q` left, and the segments after it, the state is `q` (R122). -/
theorem initStateFrom_segment {c : Config.Params} {before after : List InitState} {q : InitState} {left : Plan}
    (hq : initOrder = before ++ q :: after) (hn : left ≠ []) (hl : left <:+ initSegment c q) :
    initStateFrom c (left ++ after.flatMap (initSegment c)).length initOrder = q := by
  have := List.length_pos_iff.mpr hn
  have := hl.length_le
  rw [hq, initStateFrom_append c _ before (by simp; omega), initStateFrom, if_pos (by simp; omega)]

/-- A plan with something left to do is in the segment of a busy state. -/
theorem initStateFrom_mem (c : Config.Params) {left : Nat} (h : 0 < left) : ∀ {l : List InitState}, l ≠ [] →
    initStateFrom c left l ∈ l
  | [q], _ => by simp [initStateFrom, h]
  | q :: r :: l, _ => by
    rw [initStateFrom]
    split
    · exact List.mem_cons_self
    · exact List.mem_cons_of_mem _ (initStateFrom_mem c h (by simp))

/-- Idle and never initialised, or idle and ready (R122). -/
theorem State.initState_idle {s : State} (h : s.plan = []) :
    s.initState = match s.mode with | .uninit => some .uninit | .ready => some .ready | .boot8 => none :=
  (if_pos h).trans (by cases s.mode <;> rfl)

/-- A running INIT is in the state of its next action (R122). -/
theorem State.initState_running {s : State} (hr : s.initRun = true) (hp : s.plan ≠ []) (hs : s.plan <:+ initPlan s.cfg) :
    s.initState = some (initStateFrom s.cfg s.plan.length initOrder) := by
  rw [State.initState, if_neg hp, if_pos (by simpa [hr] using hs)]

/-- Another request's plan is in no state of R122. -/
theorem State.initState_other {s : State} (hr : s.initRun = false) (hp : s.plan ≠ []) : s.initState = none := by
  rw [State.initState, if_neg hp, if_neg (by simp [hr])]

/-- Any action but a SetMode. -/
def Action.keepsMode : Action → Bool
  | .setMode _ => false
  | .setData _ => true
  | .setRs _ => true
  | .setE _ => true
  | .wait _ => true

theorem Action.onMode_of_keepsMode {a : Action} (h : a.keepsMode = true) (m : Mode) : a.onMode m = m := by
  cases a <;> first | rfl | cases h

/-- INIT's plan sets the mode with its first action and with the 62nd from its end, and nowhere else (R121). -/
theorem initPlan_split (c : Config.Params) : ∃ p q : Plan, initPlan c = .setMode .boot8 :: p ++ .setMode .ready :: q ∧
    q.length = 61 ∧ (∀ a ∈ p, a.keepsMode = true) ∧ ∀ a ∈ q, a.keepsMode = true :=
  ⟨((initPlan c).drop 1).take 30, (initPlan c).drop 32, rfl, rfl, List.all_eq_true.mp rfl, List.all_eq_true.mp rfl⟩

/-- Along a tail of INIT's plan the mode is that of R122's states: the action leads from the mode of its state, or INIT's
first one from any mode, to the mode of the next action's state. -/
theorem initTail_mode {c : Config.Params} {a : Action} {rest : Plan} (h : a :: rest <:+ initPlan c) {m : Mode}
    (hm : a :: rest = initPlan c ∨ m = (initStateFrom c (a :: rest).length initOrder).mode) :
    a.onMode m = (initStateFrom c rest.length initOrder).mode := by
  obtain ⟨p, q, hpq, hq, hkp, hkq⟩ := initPlan_split c
  rw [initStateFrom_mode] at hm ⊢
  rw [hpq] at h hm
  rw [List.cons_append, List.suffix_cons_iff] at h
  obtain h | ⟨before, h⟩ := h
  · injection h with ha hr
    rw [ha, hr, if_pos (by simp; omega)]
    rfl
  have hl := congrArg List.length h
  simp only [List.length_append, List.length_cons] at hl
  have hm := hm.resolve_left fun e => by
    have := congrArg List.length e
    simp only [List.length_append, List.length_cons] at this
    omega
  subst hm
  obtain ⟨d, hp, hr⟩ | ⟨d, -, hr⟩ := List.append_eq_append_iff.mp h
  · cases d with
    | nil =>
      injection hr with ha hr
      rw [ha, hr, hq]
      rfl
    | cons b d =>
      injection hr with ha hr
      rw [Action.onMode_of_keepsMode (hkp a (by rw [hp, ha]; simp)), hr, if_pos (by simp; omega), if_pos (by simp; omega)]
  · cases d with
    | nil =>
      injection hr with ha hr
      rw [← ha, ← hr, hq]
      rfl
    | cons b d =>
      injection hr with ha hr
      have : q.length = d.length + (rest.length + 1) := by rw [hr]; simp
      rw [Action.onMode_of_keepsMode (hkq a (by rw [hr]; simp)), if_neg (by simp; omega), if_neg (by omega)]

end Sys2Proof.Machine
end

