-- ==== Sys2Proof/Laws/PerInstr.lean ====
section
/-! SUPPORT. Per instruction: its encoding fits the match and mask of its own row of opcode_table.json. -/

namespace Sys2Proof.Laws.FitsRow

/-- The instruction is well-formed: its bits fit its row. -/
def Statement (i : Instr) : Prop := i.wellFormed = true

/-- A request's bits fit a row when the word's own bits do. -/
theorem req_fits {op : BitVec 4} {a1 a0 : Byte} {pat mask : Word}
    (h : ((0 : BitVec 12) ++ op ++ a1 ++ a0 : Word) &&& mask = pat) :
    (TableRow.mk 32 pat.toNat mask.toNat).fits (packReq op a1 a0) = true := by
  simp [TableRow.fits, packReq, Encoded.bits, ← h, BitVec.toNat_and]

/-- Masking a request word masks each field. -/
theorem mask_fields (op m2 : BitVec 4) (a1 a0 m1 m0 : Byte) :
    ((0 : BitVec 12) ++ op ++ a1 ++ a0 : Word) &&& ((0xFFF : BitVec 12) ++ m2 ++ m1 ++ m0 : Word) =
      ((0 : BitVec 12) ++ (op &&& m2) ++ (a1 &&& m1) ++ (a0 &&& m0) : Word) := by
  rw [BitVec.and_append, BitVec.and_append, BitVec.and_append]
  rfl

theorem init : Statement .init := by unfold Statement; decide

theorem writeCmd (byte : Byte) : Statement (.writeCmd byte) := by
  refine req_fits (pat := 0x00020000) (mask := 0xFFFFFF00) ((mask_fields 0x2 0xF 0 byte 0xFF 0).trans ?_)
  simp

theorem writeChar (byte : Byte) : Statement (.writeChar byte) := by
  refine req_fits (pat := 0x00030000) (mask := 0xFFFFFF00) ((mask_fields 0x3 0xF 0 byte 0xFF 0).trans ?_)
  simp

theorem clear : Statement .clear := by unfold Statement; decide

theorem home : Statement .home := by unfold Statement; decide

theorem setCursor (column row : Byte) : Statement (.setCursor column row) := by
  refine req_fits (pat := 0x00060000) (mask := 0xFFFF0000) ((mask_fields 0x6 0xF row column 0 0).trans ?_)
  simp

theorem gotoAddr (address : Byte) : Statement (.gotoAddr address) := by
  refine req_fits (pat := 0x00070000) (mask := 0xFFFFFF00) ((mask_fields 0x7 0xF 0 address 0xFF 0).trans ?_)
  simp

theorem lcdNone : Statement .lcdNone := by unfold Statement; decide

theorem lcdClearDisplay : Statement .lcdClearDisplay := by unfold Statement; decide

theorem lcdReturnHome (x : Bool) : Statement (.lcdReturnHome x) := by
  unfold Statement; cases x <;> decide

theorem lcdEntryModeSet (i s : Bool) : Statement (.lcdEntryModeSet i s) := by
  unfold Statement; cases i <;> cases s <;> decide

theorem lcdDisplayControl (d c b : Bool) : Statement (.lcdDisplayControl d c b) := by
  unfold Statement; cases d <;> cases c <;> cases b <;> decide

theorem lcdShift (s r : Bool) (x : BitVec 2) : Statement (.lcdShift s r x) := by
  unfold Statement; revert s r x; decide

theorem lcdFunctionSet (l n f : Bool) (x : BitVec 2) : Statement (.lcdFunctionSet l n f x) := by
  unfold Statement; revert l n f x; decide

theorem lcdSetCgram (a : BitVec 6) : Statement (.lcdSetCgram a) := by
  unfold Statement; revert a; decide

theorem lcdSetDdram (a : BitVec 7) : Statement (.lcdSetDdram a) := by
  unfold Statement; revert a; decide

theorem lcdWriteData (d : Byte) : Statement (.lcdWriteData d) := by
  unfold Statement; revert d; decide

end Sys2Proof.Laws.FitsRow
end

