-- ==== Sys2Proof/Tests/Slice0.lean ====
section
/-! SUPPORT. Tests: the checks of WellFormed, words written out from the spec's encodings, one step of each instruction
with results from spec/95_test_vectors.md, and for each statement a state and operands that meet its hypotheses. -/

namespace Sys2Proof.Tests

open Sys2Proof.Machine

/-! ### WellFormed: a term each check refuses, and its neighbour that it admits -/

theorem test_operand_of_256_is_refused : operandFits 256 = false ∧ operandFits 255 = true := by decide

theorem test_word_of_33_bits_is_refused : wordFits (2 ^ 32) = false ∧ wordFits (2 ^ 32 - 1) = true := by decide

theorem test_41_columns_are_refused :
    ({ Config.defaults with cols := 41 } : Config.Params).wellFormed = false ∧
    ({ Config.defaults with cols := 40 } : Config.Params).wellFormed = true := by decide

/-- V-X3 and its neighbours. -/
theorem test_odd_accesses_are_refused :
    accessFits 0 2 = false ∧ accessFits 1 4 = false ∧ accessFits 8 4 = false ∧ accessFits 0 4 = true ∧
    accessFits 4 4 = true := by decide

/-- CLEAR's row of the table refuses HOME's word: `Instr.wellFormed` checks the row, no term of Instr fails it. -/
theorem test_another_row_is_refused :
    (tableRow .clear).fits (encode .home) = false ∧ (tableRow .lcdNone).fits (encode .lcdClearDisplay) = false ∧
    Instr.wellFormed .clear = true := by decide

/-! ### Decoding: words from V-E1, R76 and R81 -/

theorem test_decode_init : decodeTableWord 32 0x00010000 = some .init := by decide
theorem test_decode_write_cmd : decodeTableWord 32 0x0002000F = some (.writeCmd 0x0F) := by decide
theorem test_decode_write_char : decodeTableWord 32 0x00030041 = some (.writeChar 0x41) := by decide
theorem test_decode_clear : decodeTableWord 32 0x00040000 = some .clear := by decide
theorem test_decode_home : decodeTableWord 32 0x00050000 = some .home := by decide
theorem test_decode_set_cursor :
    decodeTableWord 32 0x00060105 = some (.setCursor 0x05 0x01) ∧
    decodeTableWord 32 0x0006FFFF = some (.setCursor 0xFF 0xFF) := by decide
theorem test_decode_goto_addr : decodeTableWord 32 0x00070040 = some (.gotoAddr 0x40) := by decide
theorem test_decode_lcd_none : decodeTableWord 16 0b000000000 = some .lcdNone := by decide
theorem test_decode_lcd_clear : decodeTableWord 16 0b000000001 = some .lcdClearDisplay := by decide
theorem test_decode_lcd_return_home :
    decodeTableWord 16 0b000000010 = some (.lcdReturnHome false) ∧
    decodeTableWord 16 0b000000011 = some (.lcdReturnHome true) := by decide
theorem test_decode_lcd_entry_mode :
    decodeTableWord 16 0b000000110 = some (.lcdEntryModeSet true false) ∧
    decodeTableWord 16 0b000000101 = some (.lcdEntryModeSet false true) := by decide
theorem test_decode_lcd_display_control :
    decodeTableWord 16 0b000001100 = some (.lcdDisplayControl true false false) ∧
    decodeTableWord 16 0b000001011 = some (.lcdDisplayControl false true true) := by decide
theorem test_decode_lcd_shift : decodeTableWord 16 0b000010110 = some (.lcdShift false true 2) := by decide
theorem test_decode_lcd_function_set :
    decodeTableWord 16 0b000101000 = some (.lcdFunctionSet false true false 0) ∧
    decodeTableWord 16 0b000110101 = some (.lcdFunctionSet true false true 1) := by decide
theorem test_decode_lcd_set_cgram : decodeTableWord 16 0b001111111 = some (.lcdSetCgram 0x3F) := by decide
theorem test_decode_lcd_set_ddram : decodeTableWord 16 0b011000101 = some (.lcdSetDdram 0x45) := by decide
theorem test_decode_lcd_write_data : decodeTableWord 16 0b101000001 = some (.lcdWriteData 0x41) := by decide

/-- The reserved words of V-E1, each by the case of R74 it is. -/
theorem test_decode_reserved :
    decodeReq 0x00010001 = .error .operandNotZero ∧ decodeReq 0x00010100 = .error .operandNotZero ∧
    decodeReq 0x000201FF = .error .operandNotZero ∧ decodeReq 0x00040001 = .error .operandNotZero ∧
    decodeReq 0x00070140 = .error .operandNotZero ∧ decodeReq 0x00000000 = .error .reservedOp ∧
    decodeReq 0x00080000 = .error .reservedOp ∧ decodeReq 0x000F0000 = .error .reservedOp ∧
    decodeReq 0x00100000 = .error .reservedField ∧ decodeReq 0x80010000 = .error .reservedField ∧
    decodeReq 0xFFFFFFFF = .error .reservedField := by decide

/-- The bytes of a word, the least significant at the lowest address (R52), and what follows it (R75). -/
theorem test_decode_bytes :
    decodeReqBytes [0x05, 0x01, 0x06, 0x00, 0x41] = .ok (.setCursor 0x05 0x01, [0x41]) ∧
    decodeReqBytes [0x05, 0x01, 0x06] = .error .truncated ∧
    decodeLcdBytes [0x41, 0x01] = .ok (.lcdWriteData 0x41, []) ∧
    decodeLcdBytes [0x41, 0x02] = .error .notATransfer := by decide

/-! ### The assembler (V-E3, V-W5) -/

theorem test_assemble_set_cursor : assemble 0x00 (.setcurLine 5 1) = some [0x00060105] := by decide
theorem test_assemble_string : assemble 0x00 (.stringLine [0x41, 0x42]) = some [0x00030041, 0x00030042] := by decide
theorem test_assemble_string_and_comment :
    assemble 0x42 (.stringLine [0x41, 0x42, 0x43]) = some [0x00030041] ∧
    assembleText 0x00 [';', ' ', 'x'] = some [] := by decide
theorem test_assemble_wide_operand : assemble 0x00 (.cmdLine 0x100) = none := by decide
theorem test_string_stops_at_the_sentinel :
    expandString 0x00 [0x48, 0x49, 0x00, 0x58] = [.writeChar 0x48, .writeChar 0x49] ∧
    expandString 0x00 [0x00] = [] := by decide
theorem test_assemble_text :
    assembleText 0x00 ['s', 'e', 't', 'c', 'u', 'r', ' ', '5', ',', ' ', '1', ' ', ';', 'x'] = some [0x00060105] ∧
    assembleText 0x00 ['c', 'h', 'a', 'r', ' ', '\'', 'A', '\''] = some [0x00030041] ∧
    assembleText 0x00 ['c', 'm', 'd', ' ', '0', 'x', '1', '0', '0'] = none := by decide

/-! ### States to test on -/

/-- Whether an outcome is a next state with a property. -/
def next (o : Host.Outcome State Fault Refusal) (p : State → Bool) : Bool :=
  match o with
  | .next t => p t
  | .fault _ => false
  | .refused _ => false

/-- The machine after INIT (V-I2), with time set back to 0. -/
def ready : State :=
  { State.reset with
    mode := .ready, data := 0x1
    peer := { Peer.reset8 with ifmode := .four, lines2 := true, dispOn := true } }

/-- `ready` with another peer. -/
def withPeer (f : Peer → Peer) : State := { ready with peer := f ready.peer }

/-- `ready` with other parameters. -/
def withCfg (f : Config.Params → Config.Params) : State := { ready with cfg := f ready.cfg }

/-- A host that writes `w` to REQ next. -/
def writes (s : State) (w : Word) : State := { s with schedule := [.host (.access ⟨0, 4, some w⟩)] }

/-- `ready` at an action, its turn at the head of the schedule or nothing scheduled. -/
def atAction (a : Action) (q : List Turn) : State := { ready with plan := [a, .wait 100], busy := true, schedule := q }

/-- In the middle of WRITE_CHAR 'A', at the falling edge of its low nibble (V-B1, 225). -/
def lowFalling : State :=
  { atAction (.setE false) [] with
    data := 0x1, rs := true, peer := { ready.peer with phase := .lo, hiNib := 0x4, hiRS := true } }

/-- The same at the rising edge (V-B1, 325), for a peer that latches on it. -/
def lowRising : State :=
  { atAction (.setE true) [.block] with
    data := 0x1, rs := true, e := false, cfg := { Config.defaults with latchEdge := .rising }
    peer := { ready.peer with phase := .lo, hiNib := 0x4, hiRS := true, lastE := false } }

/-! ### The requests: acceptance (V-I1, V-I6, V-B1, V-B2, V-W4, V-D1 to V-D6, V-X1) -/

theorem test_init_plan : next (exec .init .reset) (fun t =>
    t.plan.length == 93 && Plan.strobes t.plan == 12 && Plan.minDuration t.plan == 45540 && t.busy && !t.cv) = true := by
  decide
theorem test_init_repeated : next (exec .init ready) (fun t => t.plan.length == 93 && t.cv && t.cause == 3) = true := by
  decide

theorem test_write_cmd_0F : next (exec (.writeCmd 0x0F) ready) (fun t => Plan.timeline 0 t.plan ==
    [(0, .rs false), (5, .data 0x0), (15, .e false), (115, .e true), (215, .data 0xF), (225, .e false),
     (325, .e true)]) = true := by decide
theorem test_write_cmd_before_init : next (exec (.writeCmd 0x0F) .reset) (fun t =>
    t.cv && t.cause == 2 && t.plan.length == 15) = true := by decide

theorem test_write_char_A : next (exec (.writeChar 0x41) ready) (fun t => Plan.timeline 0 t.plan ==
    [(0, .rs true), (5, .data 0x4), (15, .e false), (115, .e true), (215, .data 0x1), (225, .e false),
     (325, .e true)] && Plan.minDuration t.plan == 1425) = true := by decide
theorem test_write_char_while_busy : next (exec (.writeChar 0x41) lowFalling) (fun t => t == lowFalling) = true := by
  decide

theorem test_clear : next (exec .clear ready) (fun t => t.plan.length == 16 && Plan.minDuration t.plan == 2425 &&
    Plan.latched .falling 0x1 false true t.plan == [(false, 0x0), (false, 0x1)]) = true := by decide
theorem test_home : next (exec .home ready) (fun t => t.plan.length == 16 && Plan.minDuration t.plan == 2425 &&
    Plan.latched .falling 0x1 false true t.plan == [(false, 0x0), (false, 0x2)]) = true := by decide

theorem test_set_cursor_rows : next (exec (.setCursor 0x27 0x01) ready) (fun t =>
    Plan.latched .rising 0x1 false true t.plan == [(false, 0xE), (false, 0x7)]) = true ∧
    next (exec (.setCursor 0x80 0x00) ready) (fun t =>
    Plan.latched .rising 0x1 false true t.plan == [(false, 0x0), (false, 0x0)]) = true := by decide
theorem test_set_cursor_row_5 : next (exec (.setCursor 0x00 0x05) .reset) (fun t =>
    t.plan == [] && !t.busy && t.status == 0x00000028) = true := by decide

theorem test_goto_addr : next (exec (.gotoAddr 0xFF) ready) (fun t =>
    Plan.latched .falling 0x1 false true t.plan == [(false, 0x7), (false, 0xF)]) = true ∧
    next (exec (.gotoAddr 0x30) ready) (fun t =>
    Plan.latched .falling 0x1 false true t.plan == [(false, 0xB), (false, 0x0)]) = true := by decide

/-- V-E2. -/
theorem test_reserved_word : next (step (writes .reset 0x00000000)) (fun t =>
    t.status == 0x00000018 && t.trace == [] && t.now == 0 && !t.busy) = true := by decide

/-- V-X2. -/
theorem test_status_write : next (step { State.reset with
      cv := true, cause := 1, schedule := [.host (.access ⟨4, 4, some 0xFFFFFFFF⟩)] }) (fun t =>
    t.status == 0x00000018) = true := by decide

/-! ### The transfers (V-I3, V-W1, V-W3, V-W6, V-D2, V-D3, V-D5, V-P1 to V-P3) -/

theorem test_lcd_none : next (exec .lcdNone ready) (fun t => t.peer.fault == some (.unmodelled 0x00)) = true := by
  decide
theorem test_lcd_clear : next (exec .lcdClearDisplay (withPeer fun p => { p with ddram := [(0, 0x41)], ac := 0x01, id := false }))
    (fun t => Memory.read t.peer.ddram 0x00 == 0x20 && t.peer.ac == 0x00 && t.peer.id) = true := by decide
theorem test_lcd_return_home : next (exec (.lcdReturnHome false) (withPeer fun p => { p with ddram := [(0, 0x41), (1, 0x42)], ac := 0x02 }))
    (fun t => Memory.read t.peer.ddram 0x01 == 0x42 && t.peer.ac == 0x00) = true := by decide
theorem test_lcd_entry_mode : next (exec (.lcdEntryModeSet true true) ready) (fun t => t.peer.id && t.peer.sh) = true ∧
    next (exec (.lcdEntryModeSet false false) ready) (fun t => !t.peer.id && !t.peer.sh) = true := by decide
theorem test_lcd_display_control : next (exec (.lcdDisplayControl true true true) ready) (fun t =>
    t.peer.dispOn && t.peer.cursorOn && t.peer.blinkOn) = true ∧
    next (exec (.lcdDisplayControl true false false) ready) (fun t =>
    t.peer.dispOn && !t.peer.cursorOn && !t.peer.blinkOn) = true := by decide
theorem test_lcd_shift : next (exec (.lcdShift false false 3) ready) (fun t =>
    t.peer.fault == some (.unmodelled 0x13)) = true := by decide
theorem test_lcd_function_set_28 : next (exec (.lcdFunctionSet false true false 0) (withPeer fun p => { p with lines2 := false, font10 := true }))
    (fun t => t.peer.ifmode == .four && t.peer.lines2 && !t.peer.font10) = true := by decide
theorem test_lcd_function_set_33 : next (exec (.lcdFunctionSet true false false 3) lowFalling) (fun t =>
    t.peer.ifmode == .eight && t.peer.phase == .hi && !t.peer.lines2) = true := by decide
theorem test_lcd_set_cgram : next (exec (.lcdSetCgram 0x3F) ready) (fun t =>
    t.peer.fault == some (.unmodelled 0x7F)) = true := by decide
theorem test_lcd_set_ddram : next (exec (.lcdSetDdram 0x45) ready) (fun t => t.peer.ac == 0x45) = true ∧
    next (exec (.lcdSetDdram 0x28) ready) (fun t => t.peer.fault == some .badAddress) = true := by decide
theorem test_lcd_write_data_wraps : next (exec (.lcdWriteData 0x41) (withPeer fun p => { p with ac := 0x27 })) (fun t =>
    Memory.read t.peer.ddram 0x27 == 0x41 && t.peer.ac == 0x40) = true ∧
    next (exec (.lcdWriteData 0x42) (withPeer fun p => { p with ac := 0x00, id := false })) (fun t =>
    Memory.read t.peer.ddram 0x00 == 0x42 && t.peer.ac == 0x67) = true := by decide
theorem test_lcd_write_data_shifts : next (exec (.lcdWriteData 0x41) (withPeer fun p => { p with sh := true })) (fun t =>
    t.peer.fault == some (.unmodelled 0x41)) = true := by decide

/-- The low nibble of 'A' in V-P1, by a step of the block: the character is in DDRAM after it. -/
theorem test_step_latches_A : next (step lowFalling) (fun t =>
    Memory.read t.peer.ddram 0x00 == 0x41 && t.peer.ac == 0x01 && t.peer.phase == .hi && !t.e) = true := by decide

/-- V-R1: a reset while E = 0. -/
theorem test_reset_while_e_is_low : next (step { lowRising with schedule := [.reset], cfg := Config.defaults }) (fun t =>
    t.data == 0x0 && !t.rs && t.e && t.status == 0 && t.peer.phase == .lo && t.peer.hiNib == 0x4) = true := by
  decide

/-- V-P6: a latch at 15 µs with the timing check on. -/
theorem test_overrun_after_power_on : next (step { atAction (.setE false) [] with
      now := 15, cfg := { Config.defaults with peerTiming := true } }) (fun t =>
    t.peer.fault == some .overrun) = true := by decide

/-- An instruction placed by `withFetchWord` is the next step's. -/
theorem test_fetch_word : next (step (State.reset.withFetchWord 32 0x00030041)) (fun t => t.plan.length == 15) = true ∧
    next (step (State.reset.withFetchWord 16 0b101000001)) (fun t =>
    Memory.read t.peer.ddram 0x00 == 0x41) = true := by decide

/-! ### Witnesses: states and operands that meet the hypotheses of the statements -/

theorem test_witness_DecodeOfEncode :
    Instr.wellFormed (.setCursor 0xFF 0xFF) = true ∧ Instr.wellFormed (.lcdFunctionSet true true true 3) = true := by
  decide

theorem test_witness_EncodeOfDecode :
    decode (.req 0x0006FFFF) = .ok (.setCursor 0xFF 0xFF) ∧ decode (.lcd 0b000000011) = .ok (.lcdReturnHome true) := by
  decide

theorem not_ok_of_error {e : DecodeError} {w : Word} (h : decodeReq w = .error e) : ∀ i, decodeReq w ≠ .ok i := by
  intro i hi
  rw [h] at hi
  cases hi

theorem test_witness_ReservedWordIsRecorded :
    (writes ready 0x00010001).schedule = .host (.access ⟨0, 4, some 0x00010001⟩) :: [] ∧
    (writes ready 0x00010001).busy = false ∧ (∀ i, decodeReq 0x00010001 ≠ .ok i) :=
  ⟨rfl, rfl, not_ok_of_error (e := .operandNotZero) (by decide)⟩

/-- One word for each clause of the condition, at the boundary of its field. -/
theorem test_witness_ReservedWord_clauses :
    (∀ i, decodeReq 0x00100000 ≠ .ok i) ∧ (∀ i, decodeReq 0x00000000 ≠ .ok i) ∧ (∀ i, decodeReq 0x00080000 ≠ .ok i) ∧
    (∀ i, decodeReq 0x00050100 ≠ .ok i) ∧ (∀ i, decodeReq 0x00070100 ≠ .ok i) ∧ decodeReq 0x00070000 = .ok (.gotoAddr 0) :=
  ⟨not_ok_of_error (e := .reservedField) (by decide), not_ok_of_error (e := .reservedOp) (by decide),
    not_ok_of_error (e := .reservedOp) (by decide), not_ok_of_error (e := .operandNotZero) (by decide),
    not_ok_of_error (e := .operandNotZero) (by decide), by decide⟩

/-- A word and a transfer, at the ends of their rows, that fit the row of two instructions, and words that decode. -/
theorem test_witness_TableRowsDoNotOverlap :
    ((tableRow (.writeCmd 0x00)).fits (.req 0x000200FF) = true ∧ (tableRow (.writeCmd 0x7F)).fits (.req 0x000200FF) = true) ∧
    ((tableRow (.lcdReturnHome true)).fits (.lcd 0b000000010) = true ∧
      (tableRow (.lcdReturnHome false)).fits (.lcd 0b000000010) = true) ∧
    decode (.req 0x00040000) = .ok .clear ∧ decode (.lcd 0b111111111) = .ok (.lcdWriteData 0xFF) := by decide

theorem test_witness_StepRunsRequestWord :
    (writes ready 0x00030041).schedule = .host (.access ⟨0, 4, some 0x00030041⟩) :: [] ∧
    (writes ready 0x00030041).busy = false ∧ decodeReq 0x00030041 = .ok (.writeChar 0x41) := by decide

/-- For a peer that latches on either edge, with its turn scheduled or not. -/
theorem test_witness_StepRunsTransfer :
    (lowFalling.LatchesNext false [.wait 100] ∧ lowFalling.peer.ifmode = .four ∧ lowFalling.peer.phase = .lo ∧
      lowFalling.peer.hiRS = lowFalling.rs) ∧
    (lowRising.LatchesNext true [.wait 100] ∧ lowRising.peer.ifmode = .four ∧ lowRising.peer.phase = .lo ∧
      lowRising.peer.hiRS = lowRising.rs) :=
  ⟨⟨⟨rfl, rfl, rfl, .inl rfl, rfl⟩, rfl, rfl, rfl⟩, ⟨⟨rfl, rfl, rfl, .inl rfl, rfl⟩, rfl, rfl, rfl⟩⟩

theorem test_witness_FetchedWordRuns :
    decodeTableWord 32 0x00060105 = some (.setCursor 0x05 0x01) ∧
    decodeTableWord 16 0b000000110 = some (.lcdEntryModeSet true false) := by decide

theorem test_witness_RequestIsHeldWhileBusy :
    (writes lowFalling 0x00030041).schedule = .host (.access ⟨0, 4, some 0x00030041⟩) :: [] ∧
    (writes lowFalling 0x00030041).busy = true ∧ (writes lowFalling 0x00030041).plan ≠ [] ∧
    expand lowFalling.cfg (.writeChar 0x42) = some (bytePlan lowFalling.cfg true 0x42) ∧ lowFalling.busy = true ∧
    lowFalling.peer.fault = none := by decide

/-- The block's turn in its three forms: nothing scheduled, its own turn, a write that is held. -/
theorem test_witness_block_turn :
    (atAction (.setData 0xF) []).blockMoves = true ∧ (atAction (.setData 0xF) [.block]).blockMoves = true ∧
    (atAction (.setData 0xF) [.host (.access ⟨0, 4, some 0⟩)]).blockMoves = true ∧
    (atAction (.setData 0xF) [.host .idle]).blockMoves = true := by decide

theorem test_witness_SetDataStep :
    (atAction (.setData 0xF) []).blockMoves = true ∧ (atAction (.setData 0xF) []).plan = .setData 0xF :: [.wait 100] ∧
    (atAction (.setData 0xF) []).peer.fault = none := by decide

theorem test_witness_SetRsStep :
    (atAction (.setRs true) [.block]).blockMoves = true ∧
    (atAction (.setRs true) [.block]).plan = .setRs true :: [.wait 100] ∧
    (atAction (.setRs true) [.block]).peer.fault = none := by decide

/-- A rising edge, on which this peer does not latch. -/
theorem test_witness_SetEStep :
    (atAction (.setE true) []).blockMoves = true ∧ (atAction (.setE true) []).plan = .setE true :: [.wait 100] ∧
    (atAction (.setE true) []).peer.fault = none ∧
    latchesOn (atAction (.setE true) []).cfg.latchEdge (atAction (.setE true) []).peer.lastE true = false := by decide

theorem test_witness_WaitStep :
    (atAction (.wait 0) []).blockMoves = true ∧ (atAction (.wait 0) []).plan = .wait 0 :: [.wait 100] ∧
    (atAction (.wait 0) []).peer.fault = none := by decide

theorem test_witness_SetModeStep :
    (atAction (.setMode .boot8) []).blockMoves = true ∧
    (atAction (.setMode .boot8) []).plan = .setMode .boot8 :: [.wait 100] ∧
    (atAction (.setMode .boot8) []).peer.fault = none ∧
    expand Config.defaults .init = some (initPlan Config.defaults) ∧ .setMode .boot8 ∈ initPlan Config.defaults ∧
    .setMode .ready ∈ initPlan Config.defaults := by decide

/-- The last action of a plan, and one that is not the last. -/
theorem test_witness_SequencerStep :
    (({ ready with plan := [.wait 1000], busy := true } : State).blockMoves = true ∧
      ({ ready with plan := [.wait 1000], busy := true } : State).plan = .wait 1000 :: []) ∧
    ((atAction (.setE false) []).blockMoves = true ∧ (atAction (.setE false) []).plan = .setE false :: [.wait 100]) ∧
    (atAction (.setE false) []).schedule = [] ∧ (atAction (.setE false) []).plan ≠ [] := by decide

theorem test_witness_PlanRunAddsItsEvents : lowFalling.schedule = [] := rfl

theorem test_witness_RequestsAreFramed :
    expand Config.defaults .clear = some (clearPlan Config.defaults) ∧
    expand Config.defaults (.setCursor 0x00 0x02) = some [] := by decide

theorem test_witness_InitRunsToReady :
    ready.busy = false ∧ ready.schedule = [] ∧ ready.cfg = Config.defaults := by decide

/-- From `Reset8`, and from a pending low nibble with the timing check on. -/
theorem test_witness_InitBringsPeerToInitDone :
    (let s : State := { State.reset with plan := initPlan Config.defaults, busy := true }
     s.schedule = [] ∧ s.plan = initPlan s.cfg ∧ s.e = true ∧ s.peer.lastE = true ∧ s.peer.fault = none ∧
     s.peer.ifmode = .eight ∧ s.cfg.peerTiming = false) ∧
    (let s : State := { withPeer (fun p => { p with phase := .lo, hiNib := 0x8 }) with
        cfg := { Config.defaults with peerTiming := true, latchEdge := .rising }
        plan := initPlan { Config.defaults with peerTiming := true, latchEdge := .rising } }
     s.schedule = [] ∧ s.plan = initPlan s.cfg ∧ s.e = true ∧ s.peer.lastE = true ∧ s.peer.fault = none) := by
  decide

theorem ready_inv : ready.Inv := ⟨rfl, rfl, rfl, fun _ => rfl, rfl, rfl, (by cases ·), rfl⟩

/-- INIT at its SetMode(READY), the 32nd of its 93 actions. -/
def inInit : State :=
  { ready with mode := .boot8, plan := (initPlan Config.defaults).drop 31, busy := true, initRun := true }

theorem inInit_inv : inInit.Inv :=
  ⟨by decide, by decide, by decide, fun _ => rfl, rfl, rfl, fun _ => ⟨by decide, List.drop_suffix 31 _, .inr (by decide)⟩, rfl⟩

/-- INIT just accepted, and at the last action of its last segment. -/
def initStart : State := { State.reset with plan := initPlan Config.defaults, busy := true, initRun := true }
def initEnd : State := { ready with plan := [.wait 1000], busy := true, initRun := true }

theorem initStart_inv : initStart.Inv :=
  ⟨by decide, by decide, by decide +kernel, fun _ => rfl, rfl, rfl,
    fun _ => ⟨by decide, List.suffix_rfl, .inl rfl⟩, rfl⟩

theorem initEnd_inv : initEnd.Inv :=
  ⟨by decide, by decide, by decide, fun _ => rfl, rfl, rfl,
    fun _ => ⟨by decide, List.drop_suffix 92 (initPlan Config.defaults), .inr (by decide)⟩, rfl⟩

/-- R122: CLEAR before INIT is in no state of INIT while it runs, though its plan is INIT's last segment, nor is HOME. -/
theorem test_other_requests_are_not_init :
    next (exec .clear .reset) (fun t => t.initState == none) = true ∧
    next (exec .home ready) (fun t => t.initState == none) = true := by decide

/-- R122: SetMode(READY), the last action of `S_SWITCH4`, leads to `S_FSET`. -/
theorem test_switch4_leads_to_fset :
    inInit.initState = some .switch4 ∧ next (step inInit) (fun t => t.initState == some .fset) = true := by decide


/-- The hypotheses of InitStateMachine on a tail of INIT's plan. -/
def initTail (before after : List InitState) (q : InitState) (passed left : Plan) (a : Action) (s : State) : Bool :=
  initOrder == before ++ q :: after && initSegment s.cfg q == passed ++ a :: left &&
    s.plan == a :: left ++ after.flatMap (initSegment s.cfg) && s.initRun && s.blockMoves

/-- The first action of INIT, the last of a segment in the middle, and the very last. -/
theorem test_witness_InitStateMachine :
    initTail [] [.boot1, .boot2, .boot3, .switch4, .fset, .emode, .dctrl, .clear] .pwr
      [] [.setRs false, .wait 30000] (.setMode .boot8) initStart = true ∧
    initTail [.pwr, .boot1, .boot2, .boot3] [.fset, .emode, .dctrl, .clear] .switch4
      (bootPlan Config.defaults 0x2) [] (.setMode .ready) inInit = true ∧
    initTail [.pwr, .boot1, .boot2, .boot3, .switch4, .fset, .emode, .dctrl] [] .clear
      (bytePlan Config.defaults false 0x01) [] (.wait 1000) initEnd = true := by decide

/-- The other clauses: acceptance, both idle states, a reset in the middle, and CLEAR. -/
theorem test_witness_InitStateMachine_other :
    (State.reset.busy = false ∧ ready.busy = false) ∧
    (State.reset.plan = [] ∧ State.reset.mode = .uninit) ∧ (ready.plan = [] ∧ ready.mode = .ready) ∧
    ({ inInit with schedule := [.reset] } : State).schedule = .reset :: [] ∧
    (expand ready.cfg .clear = some (clearPlan ready.cfg) ∧ Instr.clear ≠ .init ∧ clearPlan ready.cfg ≠ []) := by
  decide

/-- Those three meet the invariant, as the clauses on MODE, BUSY and the next state ask. -/
theorem test_witness_InitStateMachine_inv : initStart.Inv ∧ inInit.Inv ∧ initEnd.Inv :=
  ⟨initStart_inv, inInit_inv, initEnd_inv⟩

/-- The hypothesis of the acceptance statements, in both modes they tell apart. -/
theorem test_witness_requests_are_accepted :
    (State.reset.busy = false ∧ State.reset.mode = .uninit) ∧ (ready.busy = false ∧ ready.mode ≠ .uninit) := by decide

theorem test_witness_InitIsAccepted : State.reset.busy = false ∧ ready.busy = false := by decide
theorem test_witness_WritesAreAccepted : State.reset.busy = false ∧ ready.busy = false := by decide
theorem test_witness_ClearAndHomeAreAccepted : State.reset.busy = false ∧ ready.busy = false := by decide
theorem test_witness_SetCursorIsAccepted : State.reset.busy = false ∧ ready.busy = false := by decide
theorem test_witness_GotoAddrIsAccepted : State.reset.busy = false ∧ ready.busy = false := by decide

theorem test_witness_DdramCommandByte :
    (0x7F : Byte).toNat ≤ 0x7F ∧ (0x3F : Byte).toNat ≤ 0x3F ∧ 0x80 ≤ (0x80 : Byte).toNat ∧ 0x40 ≤ (0x40 : Byte).toNat := by
  decide

theorem test_witness_StatusRegister :
    ({ ready with schedule := [.host (.access ⟨4, 4, none⟩)] } : State).schedule = .host (.access ⟨4, 4, none⟩) :: [] ∧
    ({ ready with schedule := [.host (.access ⟨4, 4, some 0xFFFFFFFF⟩)] } : State).schedule =
      .host (.access ⟨4, 4, some 0xFFFFFFFF⟩) :: [] ∧
    (ready.busy = false ∧ ready.mode = .ready ∧ ready.cv = false ∧ ready.cause = 0) := by decide

theorem test_witness_ReqReadsZero :
    ({ lowFalling with schedule := [.host (.access ⟨0, 4, none⟩)] } : State).schedule =
      .host (.access ⟨0, 4, none⟩) :: [] := rfl

/-- Accesses on both sides of the condition. -/
theorem test_witness_OtherAccessesAreRefused :
    (let a : Access := ⟨0, 2, some 0⟩
     ({ ready with schedule := [.host (.access a)] } : State).schedule = .host (.access a) :: [] ∧
     ¬ (a.bytes = 4 ∧ (a.offset = 0 ∨ a.offset = 4))) ∧
    (let a : Access := ⟨8, 4, none⟩
     ¬ (a.bytes = 4 ∧ (a.offset = 0 ∨ a.offset = 4))) ∧
    (let a : Access := ⟨4, 4, none⟩
     ({ ready with schedule := [.host (.access a)] } : State).schedule = .host (.access a) :: [] ∧ a.bytes = 4 ∧
     (a.offset = 0 ∨ a.offset = 4)) := by decide

theorem test_witness_ViolationRecord :
    ∃ t, step (writes { ready with cv := true, cause := 2 } 0) = .next t ∧
      (writes { ready with cv := true, cause := 2 } 0).noReset = true ∧
      (writes { ready with cv := true, cause := 2 } 0).cv = true := ⟨_, rfl, rfl, rfl⟩

theorem test_witness_ModeChanges :
    ∃ t, step inInit = .next t ∧ inInit.noReset = true ∧ inInit.Inv ∧ inInit.mode ≠ .uninit ∧ t.mode ≠ inInit.mode :=
  ⟨_, rfl, rfl, inInit_inv, by decide, by decide⟩

/-- A step that changes each line. -/
theorem test_witness_OnlyTheBlockDrivesTheLines :
    (∃ t, step (atAction (.setData 0xF) []) = .next t ∧ (atAction (.setData 0xF) []).noReset = true ∧
      t.data ≠ (atAction (.setData 0xF) []).data) ∧
    (∃ t, step (atAction (.setRs true) []) = .next t ∧ (atAction (.setRs true) []).noReset = true ∧
      t.rs ≠ (atAction (.setRs true) []).rs) ∧
    (∃ t, step lowFalling = .next t ∧ lowFalling.noReset = true ∧ t.e ≠ lowFalling.e) :=
  ⟨⟨_, rfl, rfl, by decide⟩, ⟨_, rfl, rfl, by decide⟩, ⟨_, rfl, rfl, by decide⟩⟩

theorem test_witness_ResetEvent :
    ({ lowFalling with schedule := [.reset] } : State).schedule = .reset :: [] ∧ lowFalling.peer.fault = none ∧
    lowFalling.peer.lastE = true := by decide

/-- A state in which the peer has seen `E` at 0, at a reset, in each case of the statement. -/
def resetLow (c : Config.Params) (f : Peer → Peer) : State :=
  { withPeer (fun p => { f p with lastE := false }) with data := 0xA, rs := true, e := false, cfg := c, schedule := [.reset] }

/-- A falling-edge peer; a rising-edge one too early, and at the first moment that is not; 8-bit mode; phase LO with RS
at 0 before and after the reset, so that the sampled RS is 0, under another RS and under the same. -/
theorem test_witness_ResetIsARisingEdge :
    (let s := resetLow Config.defaults id
     s.schedule = .reset :: [] ∧ s.peer.lastE = false ∧ s.peer.fault = none ∧ s.cfg.latchEdge = .falling) ∧
    (let s : State := { resetLow { Config.defaults with latchEdge := .rising, peerTiming := true } id with now := 14999 }
     s.schedule = .reset :: [] ∧ s.peer.lastE = false ∧ s.peer.fault = none ∧ s.cfg.latchEdge = .rising ∧
     s.cfg.peerTiming = true ∧ s.peerTime < 15000) ∧
    (let s : State := { resetLow { Config.defaults with latchEdge := .rising, peerTiming := true } id with now := 15000 }
     s.schedule = .reset :: [] ∧ s.peer.lastE = false ∧ s.peer.fault = none ∧ s.cfg.latchEdge = .rising ∧
     15000 ≤ s.peerTime ∧ s.peer.ifmode = .four ∧ s.peer.phase = .hi) ∧
    (let s := resetLow { Config.defaults with latchEdge := .rising } fun p => { p with ifmode := .eight }
     s.schedule = .reset :: [] ∧ s.peer.lastE = false ∧ s.peer.fault = none ∧ s.cfg.latchEdge = .rising ∧
     s.cfg.peerTiming = false ∧ s.peer.ifmode = .eight) ∧
    (let s : State := { resetLow { Config.defaults with latchEdge := .rising } (fun p => { p with phase := .lo, hiRS := true }) with
        rs := false }
     s.schedule = .reset :: [] ∧ s.peer.lastE = false ∧ s.peer.fault = none ∧ s.cfg.latchEdge = .rising ∧
     s.cfg.peerTiming = false ∧ s.peer.ifmode = .four ∧ s.peer.phase = .lo ∧ s.rs ≠ s.peer.hiRS ∧ false ≠ s.peer.hiRS) ∧
    (let s : State := { resetLow { Config.defaults with latchEdge := .rising } (fun p => { p with phase := .lo, hiRS := false }) with
        rs := false }
     s.schedule = .reset :: [] ∧ s.peer.lastE = false ∧ s.peer.fault = none ∧ s.cfg.latchEdge = .rising ∧
     s.cfg.peerTiming = false ∧ s.peer.ifmode = .four ∧ s.peer.phase = .lo ∧ s.rs = s.peer.hiRS ∧ false = s.peer.hiRS) := by decide

theorem test_witness_PowerCycle :
    ({ lowFalling with schedule := [.powerCycle] } : State).schedule = .powerCycle :: [] ∧
    lowFalling.cfg.peerPowerOn = .reset8 := by decide

/-- A turn of the idling host, and nothing scheduled. -/
theorem test_witness_IdleHoldsTheLines :
    (({ ready with schedule := [.host .idle] } : State).schedule = .host .idle :: [] ∧ ready.busy = false) ∧
    ready.schedule = [] ∧ ready.plan = [] ∧ ready.peer.fault = none := by decide

theorem test_witness_EightBitLatch :
    (atAction (.setE false) []).LatchesNext false [.wait 100] ∧
    ({ atAction (.setE false) [] with peer := Peer.reset8 } : State).LatchesNext false [.wait 100] ∧
    ({ atAction (.setE false) [] with peer := Peer.reset8 } : State).peer.ifmode = .eight :=
  ⟨⟨rfl, rfl, rfl, .inl rfl, rfl⟩, ⟨rfl, rfl, rfl, .inl rfl, rfl⟩, rfl⟩

/-- A high nibble; a low nibble under another RS and under the same; the check passed at its first moment. -/
theorem test_witness_FourBitLatch :
    ((atAction (.setE false) []).LatchesNext false [.wait 100] ∧ (atAction (.setE false) []).peer.ifmode = .four ∧
      (atAction (.setE false) []).peer.phase = .hi) ∧
    (({ lowFalling with rs := false } : State).LatchesNext false [.wait 100] ∧ lowFalling.peer.phase = .lo ∧
      ({ lowFalling with rs := false } : State).rs ≠ lowFalling.peer.hiRS) ∧
    (({ lowFalling with now := 15000, cfg := { Config.defaults with peerTiming := true } } : State).LatchesNext false
      [.wait 100] ∧ lowFalling.rs = lowFalling.peer.hiRS) :=
  ⟨⟨⟨rfl, rfl, rfl, .inl rfl, rfl⟩, rfl, rfl⟩, ⟨⟨rfl, rfl, rfl, .inl rfl, rfl⟩, rfl, by decide⟩,
    ⟨⟨rfl, rfl, rfl, .inr (by decide), rfl⟩, rfl⟩⟩

/-- With the timing check off, and with it on at the moment the busy time is over. -/
theorem test_witness_PeerFree :
    ready.PeerFree ∧
    ({ withPeer (fun p => { p with busyUntil := 4100 }) with
        now := 4100, cfg := { Config.defaults with peerTiming := true } } : State).PeerFree :=
  ⟨⟨rfl, .inl rfl⟩, ⟨rfl, .inr (by decide)⟩⟩

theorem test_witness_ClearDisplayResult : ready.PeerFree := ⟨rfl, .inl rfl⟩
theorem test_witness_ReturnHomeResult : ready.PeerFree := ⟨rfl, .inl rfl⟩
theorem test_witness_EntryModeAndDisplayControl : ready.PeerFree := ⟨rfl, .inl rfl⟩
theorem test_witness_FunctionSetResult :
    ready.PeerFree ∧ State.reset.PeerFree ∧ (State.reset.peer.ifmode = .eight ∧ State.reset.peer.fsSeen = false) :=
  ⟨⟨rfl, .inl rfl⟩, ⟨rfl, .inl rfl⟩, rfl, rfl⟩

/-- The addresses at the edges of what is valid, for two lines and for one. -/
theorem test_witness_SetDdramResult :
    ready.PeerFree ∧ ready.peer.lines2 = true ∧
    (∀ a ∈ [(0x00 : BitVec 7), 0x27, 0x40, 0x67], a.toNat ≤ 0x27 ∨ (0x40 ≤ a.toNat ∧ a.toNat ≤ 0x67)) ∧
    (∀ a ∈ [(0x28 : BitVec 7), 0x3F, 0x68, 0x7F], ¬ (a.toNat ≤ 0x27 ∨ (0x40 ≤ a.toNat ∧ a.toNat ≤ 0x67))) ∧
    State.reset.PeerFree ∧ State.reset.peer.lines2 = false ∧ (0x4F : BitVec 7).toNat ≤ 0x4F ∧
    ¬ (0x50 : BitVec 7).toNat ≤ 0x4F :=
  ⟨⟨rfl, .inl rfl⟩, rfl, by decide, by decide, ⟨rfl, .inl rfl⟩, rfl, by decide, by decide⟩

theorem test_witness_WriteDataResult :
    (ready.PeerFree ∧ ready.peer.sh = false ∧ validAddress ready.peer.lines2 ready.peer.ac = true ∧
      Memory.wf ready.peer.ddram = true) ∧
    ((withPeer fun p => { p with sh := true }).PeerFree ∧ (withPeer fun p => { p with sh := true }).peer.sh = true) ∧
    ((withPeer fun p => { p with ac := 0x28 }).PeerFree ∧ (withPeer fun p => { p with ac := 0x28 }).peer.sh = false ∧
      validAddress (withPeer fun p => { p with ac := 0x28 }).peer.lines2
        (withPeer fun p => { p with ac := 0x28 }).peer.ac = false) :=
  ⟨⟨⟨rfl, .inl rfl⟩, rfl, rfl, rfl⟩, ⟨⟨rfl, .inl rfl⟩, rfl⟩, ⟨rfl, .inl rfl⟩, rfl, rfl⟩

theorem test_witness_RefusedBytesResult : ready.PeerFree := ⟨rfl, .inl rfl⟩

theorem test_witness_AddressStep :
    validAddress true 0x27 = true ∧ validAddress true 0x67 = true ∧ validAddress true 0x40 = true ∧
    validAddress false 0x4F = true ∧ validAddress false 0x00 = true := by decide

theorem test_witness_OverrunCheck :
    (let s : State := { withPeer (fun p => { p with busyUntil := 1 }) with
        cfg := { Config.defaults with peerTiming := true } }
     expand s.cfg (.lcdSetDdram 0x00) = none ∧ s.cfg.peerTiming = true ∧ s.peerTime < s.peer.busyUntil ∧
     s.peer.fault = none) ∧
    (let s : State := { atAction (.setE false) [] with
        now := 14999, cfg := { Config.defaults with peerTiming := true } }
     s.blockMoves = true ∧ s.plan = .setE false :: [.wait 100] ∧
     latchesOn s.cfg.latchEdge s.peer.lastE false = true ∧ s.cfg.peerTiming = true ∧ s.peerTime < 15000 ∧
     s.peer.fault = none) := by decide

/-- A step of a peer with a fault, and one that sets it: V-R2's low nibble under another RS. -/
theorem test_witness_PeerFaultIsSticky :
    (∃ t, step (withPeer fun p => { p with fault := some .rsChanged }) = .next t ∧
      (withPeer fun p => { p with fault := some .rsChanged }).peer.fault = some .rsChanged ∧
      ∀ rest, (withPeer fun p => { p with fault := some .rsChanged }).schedule ≠ .powerCycle :: rest) ∧
    next (step { lowFalling with rs := false }) (fun t => t.peer.fault == some .rsChanged) = true :=
  ⟨⟨_, rfl, rfl, fun _ h => by cases h⟩, by decide⟩

/-- The frame's hypothesis, and a transfer after which the peer has no fault. -/
theorem test_witness_TransferFrame :
    expand ready.cfg (.lcdWriteData 0x41) = none ∧ next (exec (.lcdWriteData 0x41) ready) (fun t =>
      t.peer.fault == none) = true := by decide

/-- The first cell of row 0 and the last of row 1, and the last column of the widest display. -/
theorem test_witness_WrittenCharacterShows :
    (∀ p ∈ [(0x00, 0, 0, 16), (0x4F, 1, 15, 16), (0x27, 0, 39, 40), (0x67, 1, 39, 40)],
      let s : State := { withPeer (fun q => { q with ac := BitVec.ofNat 7 p.1 }) with
          cfg := { Config.defaults with cols := p.2.2.2 } }
      s.peer.lines2 = true ∧ s.peer.sh = false ∧ Memory.wf s.peer.ddram = true ∧ s.cfg.cols ≤ 40 ∧ p.2.1 < 2 ∧
      p.2.2.1 < s.cfg.cols ∧ s.peer.ac.toNat = (if p.2.1 = 0 then 0x00 else 0x40) + p.2.2.1 ∧ s.peer.fault = none ∧
      s.cfg.peerTiming = false) ∧ ready.PeerFree :=
  ⟨by decide, rfl, .inl rfl⟩

theorem test_witness_StepKeepsInvariant :
    (∃ t, inInit.Inv ∧ step inInit = .next t) ∧ (∃ t, ready.Inv ∧ step ready = .next t) :=
  ⟨⟨_, inInit_inv, rfl⟩, ⟨_, ready_inv, rfl⟩⟩

end Sys2Proof.Tests
end

section
/-! SUPPORT. What the invariant rests on: the order of times, and what a plan's head and each request's plan say of E and
MODE. -/

namespace Sys2Proof.Machine

/-- Timestamps stay in order when time goes on. -/
theorem traceOk_mono {now now' : Nat} (hle : now ≤ now') : ∀ {t : Nat} {l : List (Nat × BusEvent)},
    traceOk now t l = true → traceOk now' t l = true
  | t, [], h => by
    simp only [traceOk, decide_eq_true_eq] at h ⊢
    omega
  | t, (u, ev) :: l, h => by
    simp only [traceOk, Bool.and_eq_true] at h ⊢
    exact ⟨h.1, traceOk_mono hle h.2⟩

/-- An event recorded at the current time keeps the timestamps in order. -/
theorem traceOk_snoc {now : Nat} (ev : BusEvent) : ∀ {t : Nat} {l : List (Nat × BusEvent)},
    traceOk now t l = true → traceOk now t (l ++ [(now, ev)]) = true
  | t, [], h => by simpa [traceOk] using h
  | t, (u, ev') :: l, h => by
    simp only [List.cons_append, traceOk, Bool.and_eq_true] at h ⊢
    exact ⟨h.1, traceOk_snoc ev h.2⟩

/-- What an action records keeps the timestamps in order. -/
theorem traceOk_event {now : Nat} {l : List (Nat × BusEvent)} (h : traceOk now 0 l = true) (a : Action) :
    traceOk now 0 (l ++ a.event.toList.map fun ev => (now, ev)) = true := by
  cases a.event with
  | none => simpa using h
  | some ev => exact traceOk_snoc ev h

/-- Once the head action is done, what remains of a plan still takes E from where it is through edges to 1. -/
theorem Plan.strobeOk_tail {a : Action} {rest : Plan} {e : Bool} (h : Plan.strobeOk e (a :: rest) = true) :
    Plan.strobeOk (a.onE e) rest = true := by
  cases a with
  | setE v => exact (Bool.and_eq_true_iff.mp h).2
  | setData n => exact h
  | setRs v => exact h
  | wait d => exact h
  | setMode m => exact h

/-- Once the head action is done, what remains of a plan still sets no UNINIT and leaves BOOT8. -/
theorem Plan.modeOk_tail {a : Action} {rest : Plan} {m : Mode} (h : Plan.modeOk m (a :: rest) = true) :
    Plan.modeOk (a.onMode m) rest = true := by
  cases a with
  | setMode m' => exact (Bool.and_eq_true_iff.mp h).2
  | setData n => exact h
  | setRs v => exact h
  | setE v => exact h
  | wait d => exact h

/-- A SetMode that a plan may have at its head does not set UNINIT. -/
theorem Plan.modeOk_setMode {m m' : Mode} {rest : Plan} (h : Plan.modeOk m (.setMode m' :: rest) = true) :
    m' ≠ .uninit :=
  bne_iff_ne.mp (Bool.and_eq_true_iff.mp h).1

/-- Only a SetMode gives another mode. -/
theorem Action.onMode_cases (a : Action) (m : Mode) : a.onMode m = m ∨ ∃ m', a = .setMode m' ∧ a.onMode m = m' := by
  cases a with
  | setMode m' => exact .inr ⟨m', rfl, rfl⟩
  | setData n => exact .inl rfl
  | setRs v => exact .inl rfl
  | setE v => exact .inl rfl
  | wait d => exact .inl rfl

/-- A SET_CURSOR is a byte sent under RS = 0, or nothing (R162). -/
theorem setCursorPlan_cases (c : Config.Params) (column row : Byte) :
    (∃ b, setCursorPlan c column row = bytePlan c false b) ∨ setCursorPlan c column row = [] := by
  unfold setCursorPlan
  split
  · exact .inl ⟨_, rfl⟩
  · split
    · exact .inl ⟨_, rfl⟩
    · exact .inr rfl

/-- From E = 1 the plan of every request is strobes, each a falling and then a rising edge (R106, R109). -/
theorem expand_strobeOk {c : Config.Params} {i : Instr} {p : Plan} (h : expand c i = some p) :
    Plan.strobeOk true p = true := by
  cases i <;> simp only [expand, Option.some.injEq, reduceCtorEq] at h <;> subst h
  case setCursor column row =>
    obtain ⟨b, hp⟩ | hp := setCursorPlan_cases c column row <;> rw [hp] <;> rfl
  all_goals rfl

/-- INIT's plan leads from any mode through BOOT8 to READY, and any other request's keeps the mode (R105, R121). -/
theorem expand_modeOk {c : Config.Params} {i : Instr} {p : Plan} (h : expand c i = some p) {m : Mode}
    (hm : m ≠ .boot8) : Plan.modeOk m p = true := by
  cases i <;> simp only [expand, Option.some.injEq, reduceCtorEq] at h <;> subst h
  case init => rfl
  case setCursor column row =>
    obtain ⟨b, hp⟩ | hp := setCursorPlan_cases c column row <;> rw [hp] <;> exact bne_iff_ne.mpr hm
  all_goals exact bne_iff_ne.mpr hm

/-- The acceptance of a request records one violation or none. -/
theorem State.violateIf_cases (s : State) (v : Option Violation) : s.violateIf v = s ∨ ∃ c, s.violateIf v = s.violate c := by
  cases v with
  | none => exact .inl rfl
  | some c => exact .inr ⟨c, rfl⟩

/-- A fault is never lost, so a peer that has none had none before. -/
theorem no_fault_before {s t : State} (hs : ∀ g, s.peer.fault = some g → t.peer.fault = some g)
    (ht : t.peer.fault = none) : s.peer.fault = none :=
  Option.eq_none_iff_forall_ne_some.mpr fun g hg => by simp [hs g hg] at ht

/-- With the next turn taken off, the rest of the schedule is left. -/
theorem State.popTurn_eq {s : State} {q : Turn} {rest : List Turn} (h : s.schedule = q :: rest) :
    s.popTurn = s.setSchedule rest := by
  rw [State.popTurn, h, List.tail_cons]

end Sys2Proof.Machine
end

section
/-! SUPPORT. The invariant: that power-on meets it, and that every operation of a step keeps it. -/

namespace Sys2Proof.Machine

/-! ### Power-on -/

/-- A peer powers on with E seen at 1, its resting level (R181). -/
theorem Peer.powerOn_lastE (c : Config.Params) (n : Nat) : (Peer.powerOn c n).lastE = true := by
  unfold Peer.powerOn
  split <;> rfl

/-- DDRAM is canonical at power-on, blank or with any values (R181). -/
theorem Peer.powerOn_wf (c : Config.Params) (n : Nat) : Memory.wf (Peer.powerOn c n).ddram = true := by
  unfold Peer.powerOn
  split
  · rfl
  · exact Peer.any_wf n

theorem State.powerOn_inv (c : Config.Params) : (State.powerOn c).Inv :=
  ⟨rfl, rfl, rfl, fun _ => Peer.powerOn_lastE c 0, rfl, rfl, nofun, Peer.powerOn_wf c 0⟩

theorem State.powerCycle_inv (s : State) : s.powerCycle.Inv :=
  ⟨rfl, rfl, rfl, fun _ => Peer.powerOn_lastE s.cfg s.draws, rfl, rfl, nofun, Peer.powerOn_wf s.cfg s.draws⟩

/-! ### The operations of a step -/

section
variable {s t : State}

/-- An idle machine has nothing left to do, so E rests at 1 and MODE is not BOOT8 (R23, R24, R26). -/
theorem State.Inv.idle (h : s.Inv) (hb : s.busy = false) : s.plan = [] ∧ s.e = true ∧ s.mode ≠ .boot8 := by
  have hp : s.plan = [] := by simpa [hb] using h.busyPlan
  have he := h.strobes
  have hm := h.modes
  rw [hp] at he hm
  exact ⟨hp, he, bne_iff_ne.mp hm⟩

/-- Whose turn it is plays no part in the invariant. -/
theorem State.Inv.popTurn (h : s.Inv) : s.popTurn.Inv :=
  ⟨h.busyPlan, h.strobes, h.modes, h.lastE, h.causes, h.times, h.initRuns, h.memory⟩

theorem State.Inv.poppedOrSame (h : s.Inv) (hs : PoppedOrSame s t) : t.Inv := by
  obtain rfl | rfl := hs
  · exact h
  · exact h.popTurn

theorem State.Inv.readRegister (h : s.Inv) (o : Nat) : (s.readRegister o).Inv :=
  ⟨h.busyPlan, h.strobes, h.modes, h.lastE, h.causes, h.times, h.initRuns, h.memory⟩

theorem State.Inv.passTime (h : s.Inv) (d : Nat) : (s.passTime d).Inv :=
  ⟨h.busyPlan, h.strobes, h.modes, h.lastE, h.causes, traceOk_mono (Nat.le_add_right _ _) h.times, h.initRuns, h.memory⟩

/-- A step of the peer under which the block stays as it is. -/
theorem State.Inv.peerStep (h : s.Inv) (hb : SameBlock s t) (hp : PeerStep s t) : t.Inv where
  busyPlan := by rw [hb.busy, hb.plan]; exact h.busyPlan
  strobes := by rw [hb.e, hb.plan]; exact h.strobes
  modes := by rw [hb.mode, hb.plan]; exact h.modes
  lastE hf := by rw [hp.lastE hf, hb.e]; exact h.lastE (no_fault_before hp.sticky hf)
  causes := by rw [hb.cv, hb.cause]; exact h.causes
  times := by rw [hb.now, hb.trace]; exact h.times
  initRuns := by rw [hb.initRun, hb.plan, hb.cfg, hb.mode]; exact h.initRuns
  memory := hp.memory h.memory

theorem State.Inv.drift (h : s.Inv) : s.drift.Inv := h.peerStep s.drift_sameBlock s.drift_peerStep

theorem State.Inv.violate (h : s.Inv) (c : Violation) : (s.violate c).Inv where
  busyPlan := by simpa using h.busyPlan
  strobes := by simpa using h.strobes
  modes := by simpa using h.modes
  lastE := by simpa using h.lastE
  causes := by simpa using causeOk_violate h.causes c
  times := by simpa using h.times
  initRuns := by simpa using h.initRuns
  memory := by simpa using h.memory

theorem State.Inv.violateIf (h : s.Inv) (v : Option Violation) : (s.violateIf v).Inv := by
  obtain hv | ⟨c, hv⟩ := s.violateIf_cases v <;> rw [hv]
  · exact h
  · exact h.violate c

/-- A plan that is right for the levels of E and MODE may be loaded, as an INIT's only where it is INIT's. -/
theorem State.Inv.loadPlan (h : s.Inv) {isInit : Bool} {p : Plan} (he : Plan.strobeOk s.e p = true)
    (hm : Plan.modeOk s.mode p = true) (hi : isInit = true → p = initPlan s.cfg) : (s.loadPlan isInit p).Inv where
  busyPlan := rfl
  strobes := he
  modes := hm
  lastE := h.lastE
  causes := h.causes
  times := h.times
  initRuns hr := by
    obtain rfl := hi hr
    exact ⟨List.ne_nil_of_length_pos (by simp), List.suffix_rfl, .inl rfl⟩
  memory := h.memory

/-- Accepting a request of an idle machine (R110). -/
theorem State.Inv.acceptRequest (h : s.Inv) (hb : s.busy = false) {i : Instr} {p : Plan} (hp : expand s.cfg i = some p) :
    (s.acceptRequest (i == .init) p).Inv := by
  obtain ⟨-, he, hm⟩ := h.idle hb
  rw [State.acceptRequest_idle hb]
  refine (h.violateIf _).loadPlan (by simpa [he] using expand_strobeOk hp) (by simpa using expand_modeOk hp hm) ?_
  intro hi
  obtain rfl := eq_of_beq hi
  simpa [expand, eq_comm] using hp

/-- Accepting a reserved word on an idle machine (R222). -/
theorem State.Inv.acceptReserved (h : s.Inv) (hb : s.busy = false) : s.acceptReserved.Inv := by
  obtain ⟨-, he, hm⟩ := h.idle hb
  rw [State.acceptReserved_idle hb]
  exact (h.violate _).loadPlan (by rw [State.violate_e]; exact he)
    (by rw [State.violate_mode]; exact bne_iff_ne.mpr hm) nofun

/-- The block's step, whatever its action (R111). -/
theorem State.Inv.blockStepped (h : s.Inv) {a : Action} {rest : Plan} (hp : s.plan = a :: rest)
    (hb : BlockStepped s a rest t) : t.Inv where
  busyPlan := by
    have hbusy := h.busyPlan
    rw [hb.busy, hb.plan]
    cases rest with
    | nil => rfl
    | cons b rest => simpa [hp] using hbusy
  strobes := by rw [hb.e, hb.plan]; exact Plan.strobeOk_tail (hp ▸ h.strobes)
  modes := by rw [hb.mode, hb.plan]; exact Plan.modeOk_tail (hp ▸ h.modes)
  lastE hf := by rw [hb.lastE hf, hb.e, h.lastE (no_fault_before hb.sticky hf)]
  causes := by rw [hb.cv, hb.cause]; exact h.causes
  times := by
    rw [hb.trace]
    exact traceOk_mono (by have := hb.now; omega) (traceOk_event h.times a)
  initRuns hr := by
    have hrest : rest ≠ [] ∧ s.initRun = true := by
      cases rest with
      | nil => simp [hb.initRun] at hr
      | cons b rest => exact ⟨List.cons_ne_nil b rest, by simpa [hb.initRun] using hr⟩
    obtain ⟨-, hsuffix, hmode⟩ := h.initRuns hrest.2
    rw [hp] at hsuffix hmode
    rw [hb.plan, hb.cfg, hb.mode]
    exact ⟨hrest.1, (List.suffix_cons a rest).trans hsuffix, .inr (initTail_mode hsuffix hmode)⟩
  memory := hb.memory h.memory

/-- A reset of the block leads to the invariant from any state whose DDRAM is canonical (R240). -/
theorem ResetStepped.inv (h : ResetStepped s t) (hm : Memory.wf s.peer.ddram = true) : t.Inv where
  busyPlan := by rw [h.busy, h.plan]; rfl
  strobes := by rw [h.e, h.plan]; rfl
  modes := by rw [h.mode, h.plan]; rfl
  lastE hf := by rw [h.lastE hf, h.e]
  causes := by rw [h.cv, h.cause]; rfl
  times := by rw [h.now, h.trace]; rfl
  initRuns hr := by simp [h.initRun] at hr
  memory := h.memory hm

/-- Whatever a step is, it keeps the invariant. -/
theorem State.Inv.stepCase (h : s.Inv) (hc : StepCase s t) : t.Inv := by
  cases hc with
  | block _ s' hs a rest hp hb =>
    have hp' : s'.plan = a :: rest := by obtain rfl | rfl := hs <;> exact hp
    exact (h.poppedOrSame hs).blockStepped hp' hb
  | idle s' hs ht => exact ht ▸ ((h.poppedOrSame hs).passTime 0).drift
  | request i p hb hp ht => exact ht ▸ (h.popTurn.acceptRequest hb hp).drift
  | reserved hb ht => exact ht ▸ (h.popTurn.acceptReserved hb).drift
  | read o ht => exact ht ▸ (h.popTurn.readRegister o).drift
  | pass s' hs ht => exact ht ▸ (h.poppedOrSame hs).drift
  | reset rest hq hr => exact hr.inv h.memory
  | powerCycle rest hq ht => exact ht ▸ s.popTurn.powerCycle_inv

end

end Sys2Proof.Machine
end

section
/-! SUPPORT. CV, CAUSE and MODE: what a step that is no reset does to them. -/

namespace Sys2Proof.Machine

variable {s t : State}

/-- An optional `violate` leaves the violation bits, or sets CV and keeps the first cause (R27). -/
theorem State.violateIf_record (s : State) (v : Option Violation) :
    ((s.violateIf v).cv = s.cv ∧ (s.violateIf v).cause = s.cause) ∨
    ∃ c : Violation, (s.violateIf v).cv = true ∧ (s.violateIf v).cause = if s.cv then s.cause else c.code := by
  obtain hv | ⟨c, hv⟩ := s.violateIf_cases v <;> rw [hv]
  · exact .inl ⟨rfl, rfl⟩
  · exact .inr ⟨c, s.violate_cv c, s.violate_cause c⟩

/-- A step that is no reset leaves the violation bits, or sets CV and keeps the first cause (R27). -/
theorem step_violation (h : step s = .next t) (hn : s.noReset = true) :
    (t.cv = s.cv ∧ t.cause = s.cause) ∨
    ∃ c : Violation, t.cv = true ∧ t.cause = if s.cv then s.cause else c.code := by
  cases step_cases h with
  | block _ s' hs a rest hp hb =>
    rw [hb.cv, hb.cause]
    obtain rfl | rfl := hs <;> exact .inl ⟨rfl, rfl⟩
  | idle s' hs ht => obtain rfl | rfl := hs <;> exact .inl (by simp [ht])
  | request i p hb hp ht =>
    rw [ht, State.drift_cv, State.drift_cause, State.acceptRequest_idle (s := s.popTurn) hb]
    exact s.popTurn.violateIf_record (acceptViolation (i == .init) s.mode)
  | reserved hb ht =>
    rw [ht, State.drift_cv, State.drift_cause, State.acceptReserved_idle (s := s.popTurn) hb]
    exact s.popTurn.violateIf_record (some .reservedEncoding)
  | read o ht => exact .inl (by simp [ht])
  | pass s' hs ht => obtain rfl | rfl := hs <;> exact .inl (by simp [ht])
  | reset rest hq hr => simp [State.noReset, hq] at hn
  | powerCycle rest hq ht => simp [State.noReset, hq] at hn

/-- Only a SetMode at the head of the plan and a reset write MODE (R24, R105). -/
theorem step_mode (h : step s = .next t) (hn : s.noReset = true) :
    t.mode = s.mode ∨ ∃ m rest, s.plan = .setMode m :: rest ∧ t.mode = m := by
  cases step_cases h with
  | block _ s' hs a rest hp hb =>
    have hmode : s'.mode = s.mode := by obtain rfl | rfl := hs <;> rfl
    rw [hb.mode, hmode]
    obtain ha | ⟨m, rfl, ha⟩ := a.onMode_cases s.mode
    · exact .inl ha
    · exact .inr ⟨m, rest, hp, ha⟩
  | idle s' hs ht => obtain rfl | rfl := hs <;> exact .inl (by simp [ht])
  | request i p hb hp ht =>
    rw [ht, State.acceptRequest_idle (s := s.popTurn) hb]
    exact .inl (by simp)
  | reserved hb ht =>
    rw [ht, State.acceptReserved_idle (s := s.popTurn) hb]
    exact .inl (by simp)
  | read o ht => exact .inl (by simp [ht])
  | pass s' hs ht => obtain rfl | rfl := hs <;> exact .inl (by simp [ht])
  | reset rest hq hr => simp [State.noReset, hq] at hn
  | powerCycle rest hq ht => simp [State.noReset, hq] at hn

end Sys2Proof.Machine
end

section
/-! SUPPORT. The register window: STATUS as a number, and a host access that is answered in one step. -/

namespace Sys2Proof.Machine

variable {s : State} {rest : List Turn}

/-- Two words put together, as a number: the low one has its own digits. -/
theorem toNat_append_add {n m : Nat} (x : BitVec n) (y : BitVec m) : (x ++ y).toNat = x.toNat * 2 ^ m + y.toNat := by
  rw [BitVec.toNat_append, ← Nat.shiftLeft_add_eq_or_of_lt y.isLt, Nat.shiftLeft_eq]

/-- STATUS as a number: CAUSE from bit 4, CV in bit 3, MODE in bits 2:1, BUSY in bit 0 (R29). -/
theorem State.status_toNat (s : State) :
    s.status.toNat = s.cause.toNat * 16 + s.cv.toNat * 8 + s.mode.code.toNat * 2 + s.busy.toNat := by
  unfold State.status
  simp only [toNat_append_add, BitVec.toNat_ofBool, BitVec.ofNat_eq_ofNat, BitVec.toNat_ofNat]
  omega

/-- The fields of STATUS: each is the digits of the number that R29 gives it, and nothing stands above CAUSE. -/
theorem State.status_fields (s : State) :
    s.status.toNat % 2 = s.busy.toNat ∧ s.status.toNat / 2 % 4 = s.mode.code.toNat ∧
    s.status.toNat / 8 % 2 = s.cv.toNat ∧ s.status.toNat / 16 % 8 = s.cause.toNat ∧ s.status.toNat / 128 = 0 := by
  have hbusy := s.busy.toNat_lt
  have hmode := s.mode.code.isLt
  have hcv := s.cv.toNat_lt
  have hcause := s.cause.isLt
  rw [s.status_toNat]
  omega

/-- A read of REQ or STATUS is never held, and changes nothing but what the host has read (R28, R29, R53). -/
theorem step_read {o : Nat} (ho : accessFits o 4 = true) (h : s.schedule = .host (.access ⟨o, 4, none⟩) :: rest) :
    step s = .next ((s.setSchedule rest).readRegister o).drift := by
  unfold step State.move
  rw [h, ← State.popTurn_eq h]
  simp [State.accessMove, ho, runMove]

/-- A write to STATUS is never held, and is ignored (R29). -/
theorem step_writeStatus {w : Word} (h : s.schedule = .host (.access ⟨4, 4, some w⟩) :: rest) :
    step s = .next (s.setSchedule rest).drift := by
  unfold step State.move
  rw [h, ← State.popTurn_eq h]
  rfl

end Sys2Proof.Machine
end

section
/-! SUPPORT. The statements on the block's state (10_state.md), settled. -/

namespace Sys2Proof.Machine

/-- Settles O60, by the cases of a step: every operation a step is made of keeps the invariant. -/
theorem stepKeepsInvariant : Obligations.StepKeepsInvariant := by
  unfold Obligations.StepKeepsInvariant
  exact fun _ _ h hstep => h.stepCase (step_cases hstep)

/-- Settles O59: E, PLAN, MODE, CV and the trace have their values of R34, and the peer has seen E at 1 and its DDRAM is
canonical whichever way it powers on. -/
theorem powerOnMeetsInvariant : Obligations.PowerOnMeetsInvariant := by
  unfold Obligations.PowerOnMeetsInvariant
  exact ⟨State.powerOn_inv Config.defaults, State.powerOn_inv⟩

/-- Settles O37: what a step does to CV and CAUSE is one `violate` or nothing, and `violate` keeps a cause already there. -/
theorem violationRecord : Obligations.ViolationRecord := by
  unfold Obligations.ViolationRecord
  refine ⟨fun s c => by simp, fun s t h hn => ?_, fun s t h hn hcv => ?_, rfl, rfl⟩
  · simpa only [State.violate_cv, State.violate_cause] using step_violation h hn
  · obtain ⟨ht, hc⟩ | ⟨c, ht, hc⟩ := step_violation h hn
    · exact ⟨ht.trans hcv, hc⟩
    · exact ⟨ht, hc.trans (if_pos hcv)⟩

/-- Settles O38: only a SetMode gives another mode, and the invariant's plan holds no SetMode(UNINIT). -/
theorem modeChanges : Obligations.ModeChanges := by
  unfold Obligations.ModeChanges
  refine fun s t h hn => ⟨step_mode h hn, fun hi hm => ?_⟩
  obtain ht | ⟨m, rest, hp, ht⟩ := step_mode h hn <;> rw [ht]
  · exact hm
  · exact Plan.modeOk_setMode (hp ▸ hi.modes)

/-- Settles O33: the fields are the digits of STATUS as a number, and the accesses are the window's steps at offset 4. -/
theorem statusRegister : Obligations.StatusRegister := by
  unfold Obligations.StatusRegister
  refine ⟨fun s => ?_, fun s rest h => step_read rfl h, fun s w rest h => step_writeStatus h, rfl, ?_⟩
  · obtain ⟨hbusy, hmode, hcv, hcause, htop⟩ := s.status_fields
    exact ⟨hbusy.trans (by cases s.busy <;> rfl), hmode.trans (by cases s.mode <;> rfl),
      hcv.trans (by cases s.cv <;> rfl), hcause, htop⟩
  · intro s hb hm hv hc
    rw [State.status, hb, hm, hv, hc]
    rfl

/-- Settles O34: a read of the window at offset 0 gives 0. -/
theorem reqReadsZero : Obligations.ReqReadsZero := by
  unfold Obligations.ReqReadsZero
  exact fun s rest h => step_read rfl h

/-- Settles O40: each value is the table's own. -/
theorem resetTable : Obligations.ResetTable := by
  unfold Obligations.ResetTable
  exact ⟨rfl, rfl, rfl, rfl, rfl, rfl, rfl, rfl, rfl, rfl, rfl⟩

end Sys2Proof.Machine
end

section
/-! SUPPORT. The lines: what a step that is no reset does to DATA, RS and E, and a plan run to its end. -/

namespace Sys2Proof.Machine

variable {s t : State}

/-! ### Who drives a line -/

/-- Only a SetData gives another data nibble (R101). -/
theorem Action.onData_cases (a : Action) (d : Nibble) : a.onData d = d ∨ a = .setData (a.onData d) := by
  cases a with
  | setData n => exact .inr rfl
  | setRs v => exact .inl rfl
  | setE v => exact .inl rfl
  | wait d => exact .inl rfl
  | setMode m => exact .inl rfl

/-- Only a SetRS gives another level of RS (R102). -/
theorem Action.onRs_cases (a : Action) (r : Bool) : a.onRs r = r ∨ a = .setRs (a.onRs r) := by
  cases a with
  | setRs v => exact .inr rfl
  | setData n => exact .inl rfl
  | setE v => exact .inl rfl
  | wait d => exact .inl rfl
  | setMode m => exact .inl rfl

/-- Only a SetE gives another level of E (R103). -/
theorem Action.onE_cases (a : Action) (e : Bool) : a.onE e = e ∨ a = .setE (a.onE e) := by
  cases a with
  | setE v => exact .inr rfl
  | setData n => exact .inl rfl
  | setRs v => exact .inl rfl
  | wait d => exact .inl rfl
  | setMode m => exact .inl rfl

/-- A step that is no reset leaves the three lines, or is the block's and gives them the levels its head action does
(R63, R111). -/
theorem step_lines (h : step s = .next t) (hn : s.noReset = true) :
    (t.data = s.data ∧ t.rs = s.rs ∧ t.e = s.e) ∨
    ∃ a, s.blockMoves = true ∧ s.plan = a :: t.plan ∧
      t.data = a.onData s.data ∧ t.rs = a.onRs s.rs ∧ t.e = a.onE s.e := by
  cases step_cases h with
  | block hm s' hs a rest hp hb =>
    refine .inr ⟨a, hm, by rw [hp, hb.plan], ?_⟩
    rw [hb.data, hb.rs, hb.e]
    obtain rfl | rfl := hs <;> exact ⟨rfl, rfl, rfl⟩
  | idle s' hs ht => obtain rfl | rfl := hs <;> exact .inl (by simp [ht])
  | request i p hb hp ht =>
    rw [ht, State.acceptRequest_idle (s := s.popTurn) hb]
    exact .inl (by simp)
  | reserved hb ht =>
    rw [ht, State.acceptReserved_idle (s := s.popTurn) hb]
    exact .inl (by simp)
  | read o ht => exact .inl (by simp [ht])
  | pass s' hs ht => obtain rfl | rfl := hs <;> exact .inl (by simp [ht])
  | reset rest hq hr => simp [State.noReset, hq] at hn
  | powerCycle rest hq ht => simp [State.noReset, hq] at hn

/-! ### A plan run to its end -/

/-- `t` is `s` after its plan `p` has run to its end: nothing is left of the plan, the trace has its line events, at least
its waits have passed, and the violations and the parameters are as they were (R60, R111, R251). -/
structure PlanRun (s : State) (p : Plan) (t : State) : Prop where
  plan : t.plan = []
  busy : t.busy = (p.isEmpty && s.busy)
  events : t.trace.map Prod.snd = s.trace.map Prod.snd ++ p.filterMap Action.event
  time : s.now + (p.map Action.bound).sum ≤ t.now
  cv : t.cv = s.cv
  cause : t.cause = s.cause
  cfg : t.cfg = s.cfg

/-- The block's step and then the run of the rest of the plan are a run of the plan. -/
theorem PlanRun.cons {u : State} {a : Action} {rest : Plan} (hb : BlockStepped s a rest u) (h : PlanRun u rest t) :
    PlanRun s (a :: rest) t where
  plan := h.plan
  busy := by rw [h.busy, hb.busy]; cases rest <;> rfl
  events := by
    rw [h.events, hb.trace, List.filterMap_cons]
    cases a.event <;> simp
  time := by
    have hfirst := hb.now
    have hrest := h.time
    rw [List.map_cons, List.sum_cons]
    omega
  cv := h.cv.trans hb.cv
  cause := h.cause.trans hb.cause
  cfg := h.cfg.trans hb.cfg

/-- With nothing scheduled the block runs its plan to its end, one step an action. -/
theorem run_plan {p : Plan} (hp : s.plan = p) (hq : s.schedule = []) :
    ∃ t, core.run p.length s = .next t ∧ PlanRun s p t := by
  induction p generalizing s with
  | nil => exact ⟨s, rfl, hp, rfl, (List.append_nil _).symm, le_rfl, rfl, rfl, rfl⟩
  | cons a rest ih =>
    have hm : s.blockMoves = true := by rw [State.blockMoves, hq]
    have hturn : s.turnTaken = s.schedule := by rw [State.turnTaken, hq]
    obtain ⟨u, hu, hb⟩ := step_block hm hp
    rw [hturn] at hb
    obtain ⟨t, ht, hr⟩ := ih hb.plan (hb.schedule.trans hq)
    exact ⟨t, (core_run_succ hu rest.length).trans ht, hr.cons hb⟩

end Sys2Proof.Machine
end

section
/-! SUPPORT. What each transfer leaves of the peer: its effect without a fault, and the fields it does not write. -/

namespace Sys2Proof.Machine

/-! ### Effects that set no fault -/

/-- Raising leaves a fault, so it is no effect that sets none. -/
theorem Peer.raise_ne_none (p : Peer) (f : PeerFault) : (p.raise f).fault ≠ none :=
  Option.isSome_iff_ne_none.mp (p.raise_isSome f)

/-- Set DDRAM address moves the cursor, unless it sets the fault (R193). -/
theorem Peer.setDdram_of_no_fault {p : Peer} {a : BitVec 7} (h : (p.setDdram a).fault = none) :
    p.setDdram a = { p with ac := a } := by
  unfold Peer.setDdram at h ⊢
  split
  · rfl
  · rename_i ha
    rw [if_neg ha] at h
    exact absurd h (p.raise_ne_none _)

/-- Write data stores at the cursor and steps it, unless it sets the fault (R195). -/
theorem Peer.writeData_of_no_fault {p : Peer} {b : Byte} (h : (p.writeData b).fault = none) :
    p.writeData b = { p with ddram := Memory.write p.ddram p.ac.toNat b, ac := stepAddress p.lines2 p.id p.ac } := by
  unfold Peer.writeData at h ⊢
  split
  · rename_i hs
    rw [if_pos hs] at h
    exact absurd h (p.raise_ne_none _)
  · rename_i hs
    rw [if_neg hs] at h
    split
    · rename_i ha
      rw [if_pos ha] at h
      exact absurd h (p.raise_ne_none _)
    · rfl

/-- A transfer that ends without a fault had its effect on the peer, which is then busy for a while, and no free value
was drawn (R186, R197). -/
theorem State.transfer_of_no_fault {s t : State} {r : Bool} {b : Byte} {f : Peer → Peer}
    (ht : s.transfer r b f = .next t) (hf : t.peer.fault = none) :
    ∃ busy, t.peer = { f s.peer with busyUntil := busy } ∧ (f s.peer).fault = none ∧ t.draws = s.draws := by
  rw [State.transfer_next] at ht
  cases ht
  rw [State.drift_fault] at hf
  rw [State.drift_of_no_fault hf]
  obtain ⟨-, -, he⟩ | ⟨-, he⟩ := s.peer.execute_cases s.cfg.peerTiming s.peerTime r b f
  · rw [State.setPeer_peer, he] at hf
    exact absurd hf (s.peer.raise_ne_none _)
  · rw [State.setPeer_peer, he] at hf ⊢
    exact ⟨_, rfl, hf, rfl⟩

/-! ### The fields a transfer does not write -/

/-- The transfer `i`, which makes `q` of the peer `p`, writes no field but its own (R187, R189 to R193, R195). -/
structure TransferKeeps (i : Instr) (p q : Peer) : Prop where
  lastE : q.lastE = p.lastE
  hiNib : q.hiNib = p.hiNib
  hiRS : q.hiRS = p.hiRS
  interface : (∀ l n f x, i ≠ .lcdFunctionSet l n f x) →
    q.ifmode = p.ifmode ∧ q.phase = p.phase ∧ q.lines2 = p.lines2 ∧ q.font10 = p.font10 ∧ q.fsSeen = p.fsSeen
  display : (∀ d c b, i ≠ .lcdDisplayControl d c b) →
    q.dispOn = p.dispOn ∧ q.cursorOn = p.cursorOn ∧ q.blinkOn = p.blinkOn
  entry : (∀ k h, i ≠ .lcdEntryModeSet k h) → q.sh = p.sh ∧ (i ≠ .lcdClearDisplay → q.id = p.id)
  memory : (i ≠ .lcdClearDisplay ∧ ∀ d, i ≠ .lcdWriteData d) → q.ddram = p.ddram
  otherCells : ∀ d, i = .lcdWriteData d → ∀ a, a ≠ p.ac.toNat → Memory.read q.ddram a = Memory.read p.ddram a
  cursor : (i ≠ .lcdClearDisplay ∧ (∀ x, i ≠ .lcdReturnHome x) ∧ (∀ a, i ≠ .lcdSetDdram a) ∧
    ∀ d, i ≠ .lcdWriteData d) → q.ac = p.ac

/-- Every transfer's meaning is `Execute` around an effect that, where it sets no fault, writes no field but its own. -/
theorem exec_transfer_keeps {i : Instr} {s : State} (h : expand s.cfg i = none) :
    ∃ r f, exec i s = s.transfer r (lcdByte i) f ∧
      ∀ p busy, (f p).fault = none → TransferKeeps i p { f p with busyUntil := busy } := by
  cases i <;> simp only [expand, reduceCtorEq] at h <;> refine ⟨_, _, rfl, fun p busy hf => ?_⟩
  case lcdNone => exact absurd hf (p.raise_ne_none _)
  case lcdShift => exact absurd hf (p.raise_ne_none _)
  case lcdSetCgram => exact absurd hf (p.raise_ne_none _)
  case lcdClearDisplay => constructor <;> simp [Peer.clearDisplay]
  case lcdReturnHome => constructor <;> simp [Peer.returnHome]
  case lcdEntryModeSet => constructor <;> simp [Peer.entryModeSet]
  case lcdDisplayControl => constructor <;> simp [Peer.displayControl]
  case lcdFunctionSet l n g x =>
    constructor
    case interface => exact fun hi => absurd rfl (hi l n g x)
    all_goals simp [Peer.functionSet]
  case lcdSetDdram => rw [Peer.setDdram_of_no_fault hf]; constructor <;> simp
  case lcdWriteData =>
    rw [Peer.writeData_of_no_fault hf]
    constructor <;> simp +contextual [Memory.read_write_other]

/-- A transfer that ends without a fault wrote no field of the peer but its own, and drew no free value. -/
theorem exec_keeps {i : Instr} {s t : State} (h : expand s.cfg i = none) (ht : exec i s = .next t)
    (hf : t.peer.fault = none) : TransferKeeps i s.peer t.peer ∧ t.draws = s.draws := by
  obtain ⟨r, f, he, hk⟩ := exec_transfer_keeps h
  obtain ⟨busy, hp, hff, hd⟩ := State.transfer_of_no_fault (he.symm.trans ht) hf
  exact ⟨hp ▸ hk s.peer busy hff, hd⟩

end Sys2Proof.Machine
end

section
/-! SUPPORT. The accesses the window has (20_memory.md R51). -/

namespace Sys2Proof.Machine

variable {s : State} {a : Access} {rest : List Turn}

/-- An access fits the window when it is one of 32 bits at offset 0x0 or 0x4 (R51). -/
theorem accessFits_iff {offset bytes : Nat} :
    accessFits offset bytes = true ↔ bytes = 4 ∧ (offset = 0 ∨ offset = 4) := by
  simp [accessFits]

/-- An access the window does not have is refused (R51). -/
theorem step_refused (h : s.schedule = .host (.access a) :: rest) (ha : ¬ accessFits a.offset a.bytes = true) :
    step s = .refused (.hostAccess a.offset a.bytes) := by
  unfold step State.move
  rw [h]
  dsimp only
  rw [State.accessMove, if_neg ha, runMove]

/-- An access the window has is answered, also a write that is held (R51, R110). -/
theorem step_answered (h : s.schedule = .host (.access a) :: rest) (ha : accessFits a.offset a.bytes = true) :
    ∃ t, step s = .next t := by
  obtain ⟨t, ht, -, -⟩ | ⟨hbad, -⟩ := step_total s
  · exact ⟨t, ht⟩
  · simp [State.asksBadAccess, h, ha] at hbad

end Sys2Proof.Machine
end

section
/-! SUPPORT. The statements on the window, the lines and the trace (20_memory.md), settled. -/

namespace Sys2Proof.Machine

/-- Settles O17, by induction on the plan: each block step adds its own event and at least its own wait. -/
theorem planRunAddsItsEvents : Obligations.PlanRunAddsItsEvents := by
  unfold Obligations.PlanRunAddsItsEvents
  intro s hq
  obtain ⟨t, ht, h⟩ := run_plan rfl hq
  exact ⟨t, ht, h.events, h.time, h.cv, h.cause, h.cfg⟩

/-- Settles O39: a line that changes was given its level by the head action of a block step, and only the line's own
action gives it another. -/
theorem onlyTheBlockDrivesTheLines : Obligations.OnlyTheBlockDrivesTheLines := by
  unfold Obligations.OnlyTheBlockDrivesTheLines
  intro s t h hn
  obtain ⟨hdata, hrs, he⟩ | ⟨a, hm, hp, hdata, hrs, he⟩ := step_lines h hn
  · exact ⟨absurd hdata, absurd hrs, absurd he⟩
  · rw [hp, hdata, hrs, he]
    refine ⟨fun hne => ⟨hm, ?_⟩, fun hne => ⟨hm, ?_⟩, fun hne => ⟨hm, ?_⟩⟩
    · rw [← (a.onData_cases s.data).resolve_left hne]
    · rw [← (a.onRs_cases s.rs).resolve_left hne]
    · rw [← (a.onE_cases s.e).resolve_left hne]

/-- Settles O57: a transfer's step is the peer's alone, and without a fault it writes no field but its own. -/
theorem transferFrame : Obligations.TransferFrame := by
  unfold Obligations.TransferFrame
  intro i s h
  obtain ⟨t, ht, hb, -⟩ := exec_transfer_step h
  refine ⟨t, ht, hb, fun hf => ?_⟩
  obtain ⟨hk, hd⟩ := exec_keeps h ht hf
  exact ⟨hk.lastE, hk.hiNib, hk.hiRS, hd, hk.interface, hk.display, hk.entry, fun hi a => by rw [hk.memory hi],
    hk.otherCells, hk.cursor⟩

/-- Settles O35: the window's accesses are those that fit, and a step is refused only for one that does not. -/
theorem otherAccessesAreRefused : Obligations.OtherAccessesAreRefused := by
  unfold Obligations.OtherAccessesAreRefused
  intro s a rest h
  exact ⟨fun ha => step_refused h (mt accessFits_iff.mp ha), fun hb ho => step_answered h (accessFits_iff.mpr ⟨hb, ho⟩)⟩

end Sys2Proof.Machine
end

section
/-! SUPPORT. The decoder and the encoder: each is the inverse of the other, on request words by their fields
(30_encoding.md R70, R73) and on transfers by their bits (R81), and a row of the opcode table fits exactly the encodings
of its own instructions (R71, R81). -/

namespace Sys2Proof

variable {i : Instr} {w : Word}

/-! ### Request words -/

@[simp] theorem mustBeZero_eq_ok {ok : Bool} {j : Instr} : mustBeZero ok i = .ok j ↔ ok = true ∧ i = j := by
  cases ok with
  | false => simp [mustBeZero]
  | true => simp [mustBeZero]

/-- A word is put together from its own fields, and from no others (R70). -/
theorem packReq_eq_req {op : BitVec 4} {a1 a0 : Byte} :
    packReq op a1 a0 = .req w ↔ fieldRsvd w = 0 ∧ fieldOp w = op ∧ fieldArg1 w = a1 ∧ fieldArg0 w = a0 := by
  constructor
  · rintro ⟨⟩
    simp only [fieldRsvd_append, fieldOp_append, fieldArg1_append, fieldArg0_append, and_self]
  · rintro ⟨hr, rfl, rfl, rfl⟩
    rw [packReq, ← hr, ← word_eq_fields]

/-- A request's word decodes to it: each field is the one `Encode` put there. -/
theorem decodeReq_of_encode (h : encode i = .req w) : decodeReq w = .ok i := by
  cases i
  case init | writeCmd | writeChar | clear | home | setCursor | gotoAddr =>
    simp only [encode, packReq_eq_req] at h
    simp [decodeReq, h]
  all_goals cases h

/-- A word that decodes is its request's word: the branch of `Decode` that was taken says what each field is. -/
theorem encode_of_decodeReq (h : decodeReq w = .ok i) : encode i = .req w := by
  unfold decodeReq at h
  split at h
  · cases h
  next hr =>
    split at h
    case h_8 => cases h
    all_goals
      next ho =>
        simp only [mustBeZero_eq_ok, Except.ok.injEq, Bool.and_eq_true, beq_iff_eq] at h
        simp only [← h, encode]
        exact packReq_eq_req.mpr ⟨not_not.mp hr, BitVec.eq_of_toNat_eq ho, by simp [h], by simp [h]⟩

/-! ### Transfers -/

/-- A transfer is RS above its byte (R81). -/
theorem rs_append_byte (t : BitVec 9) : bit (t.getLsbD 8) ++ t.extractLsb' 0 8 = t := by
  refine BitVec.eq_of_getLsbD_eq (w := 1 + 8) fun k hk => ?_
  rw [BitVec.getLsbD_append, BitVec.getLsbD_extractLsb']
  interval_cases k <;> simp [bit]

/-- What RS and a byte decode to has them as its encoding: the leading bits are those the dispatch has seen, and the
fields are the rest of the byte. -/
theorem encode_decodeTransfer (rs : Bool) (b : Byte) : encode (decodeTransfer rs b) = .lcd (bit rs ++ b) := by
  unfold decodeTransfer
  split_ifs
  all_goals
    simp only [encode, Encoded.lcd.injEq]
    refine BitVec.eq_of_getLsbD_eq fun k hk => ?_
    simp only [BitVec.getLsbD_append]
    interval_cases k <;> simp_all [bit]

section
variable {n m : Nat} {x : BitVec n} {y : BitVec m} {t : BitVec (n + m)}

theorem getLsbD_of_append (h : x ++ y = t) (k : Nat) :
    t.getLsbD k = if k < m then y.getLsbD k else x.getLsbD (k - m) := by
  rw [← h, BitVec.getLsbD_append]

theorem extractLsb'_of_append (h : x ++ y = t) : t.extractLsb' 0 m = y := by
  refine BitVec.eq_of_getLsbD_eq fun k hk => ?_
  rw [BitVec.getLsbD_extractLsb', decide_eq_true hk, Bool.true_and, Nat.zero_add, getLsbD_of_append h, if_pos hk]

end

/-- A transfer's bits decode to it: the dispatch on the leading 1 bit finds its row, and each field is the one `Encode`
put there. -/
theorem decodeTransfer_of_encode {t : BitVec 9} (h : encode i = .lcd t) :
    decodeTransfer (t.getLsbD 8) (t.extractLsb' 0 8) = i := by
  cases i
  case init | writeCmd | writeChar | clear | home | setCursor | gotoAddr => cases h
  case lcdNone | lcdClearDisplay => cases h; rfl
  case lcdSetCgram | lcdSetDdram | lcdWriteData =>
    injection h with h
    simp [decodeTransfer, getLsbD_of_append h, extractLsb'_of_append h, -BitVec.getLsbD_eq_getElem]
  all_goals
    injection h with h
    have hbit := getLsbD_of_append h
    simp only [BitVec.getLsbD_append, bit] at hbit
    simp [decodeTransfer, hbit, extractLsb'_of_append h, -BitVec.getLsbD_eq_getElem]

/-- Decoding and encoding are inverse to each other (R73, R81). -/
theorem decode_eq_ok_iff {e : Encoded} : decode e = .ok i ↔ encode i = e := by
  cases e with
  | req w => exact ⟨encode_of_decodeReq, decodeReq_of_encode⟩
  | lcd t =>
    constructor
    · rintro ⟨⟩
      rw [encode_decodeTransfer, rs_append_byte]
    · intro h
      rw [decode, decodeTransfer_of_encode h]

/-! ### Rows of the opcode table -/

/-- No term of Instr fails the check of its row (R72). -/
theorem Instr.wellFormed_all (i : Instr) : i.wellFormed = true := by
  cases i with
  | init => exact Laws.FitsRow.init
  | writeCmd b => exact Laws.FitsRow.writeCmd b
  | writeChar b => exact Laws.FitsRow.writeChar b
  | clear => exact Laws.FitsRow.clear
  | home => exact Laws.FitsRow.home
  | setCursor c r => exact Laws.FitsRow.setCursor c r
  | gotoAddr a => exact Laws.FitsRow.gotoAddr a
  | lcdNone => exact Laws.FitsRow.lcdNone
  | lcdClearDisplay => exact Laws.FitsRow.lcdClearDisplay
  | lcdReturnHome x => exact Laws.FitsRow.lcdReturnHome x
  | lcdEntryModeSet inc sh => exact Laws.FitsRow.lcdEntryModeSet inc sh
  | lcdDisplayControl d c b => exact Laws.FitsRow.lcdDisplayControl d c b
  | lcdShift s r x => exact Laws.FitsRow.lcdShift s r x
  | lcdFunctionSet l n f x => exact Laws.FitsRow.lcdFunctionSet l n f x
  | lcdSetCgram a => exact Laws.FitsRow.lcdSetCgram a
  | lcdSetDdram a => exact Laws.FitsRow.lcdSetDdram a
  | lcdWriteData d => exact Laws.FitsRow.lcdWriteData d

/-- A word that fits the row of an opcode has that opcode, no reserved bit, and no bit in an argument the mask covers. -/
theorem fields_of_fits {op : BitVec 4} {m1 m0 : Byte}
    (h : (TableRow.mk 32 ((0 : BitVec 12) ++ op ++ (0 : Byte) ++ (0 : Byte)).toNat
      (BitVec.allOnes 12 ++ BitVec.allOnes 4 ++ m1 ++ m0).toNat).fits (.req w) = true) :
    fieldRsvd w = 0 ∧ fieldOp w = op ∧ (m1 = BitVec.allOnes 8 → fieldArg1 w = 0) ∧
      (m0 = BitVec.allOnes 8 → fieldArg0 w = 0) := by
  simp only [TableRow.fits, Encoded.bits, Bool.and_eq_true, beq_iff_eq, ← BitVec.toNat_and] at h
  have hw := BitVec.eq_of_toNat_eq h.2
  rw [word_eq_fields w, BitVec.and_append, BitVec.and_append, BitVec.and_append, BitVec.and_allOnes,
    BitVec.and_allOnes] at hw
  have hr := congrArg fieldRsvd hw
  have ho := congrArg fieldOp hw
  have h1 := congrArg fieldArg1 hw
  have h0 := congrArg fieldArg0 hw
  simp only [fieldRsvd_append, fieldOp_append, fieldArg1_append, fieldArg0_append] at hr ho h1 h0
  refine ⟨hr, ho, ?_, ?_⟩
  · rintro rfl
    rwa [BitVec.and_allOnes] at h1
  · rintro rfl
    rwa [BitVec.and_allOnes] at h0

/-- A word that fits a row is the word of an instruction of that row, with the word's own arguments as its operands. -/
theorem decodeReq_row_of_fits (h : (tableRow i).fits (.req w) = true) :
    ∃ k, decodeReq w = .ok k ∧ tableRow k = tableRow i := by
  cases i with
  | init =>
    obtain ⟨hr, ho, h1, h0⟩ := fields_of_fits (op := 1) (m1 := 0xFF) (m0 := 0xFF) h
    exact ⟨.init, decodeReq_of_encode (packReq_eq_req.mpr ⟨hr, ho, h1 rfl, h0 rfl⟩), rfl⟩
  | writeCmd _ =>
    obtain ⟨hr, ho, h1, -⟩ := fields_of_fits (op := 2) (m1 := 0xFF) (m0 := 0) h
    exact ⟨.writeCmd _, decodeReq_of_encode (packReq_eq_req.mpr ⟨hr, ho, h1 rfl, rfl⟩), rfl⟩
  | writeChar _ =>
    obtain ⟨hr, ho, h1, -⟩ := fields_of_fits (op := 3) (m1 := 0xFF) (m0 := 0) h
    exact ⟨.writeChar _, decodeReq_of_encode (packReq_eq_req.mpr ⟨hr, ho, h1 rfl, rfl⟩), rfl⟩
  | clear =>
    obtain ⟨hr, ho, h1, h0⟩ := fields_of_fits (op := 4) (m1 := 0xFF) (m0 := 0xFF) h
    exact ⟨.clear, decodeReq_of_encode (packReq_eq_req.mpr ⟨hr, ho, h1 rfl, h0 rfl⟩), rfl⟩
  | home =>
    obtain ⟨hr, ho, h1, h0⟩ := fields_of_fits (op := 5) (m1 := 0xFF) (m0 := 0xFF) h
    exact ⟨.home, decodeReq_of_encode (packReq_eq_req.mpr ⟨hr, ho, h1 rfl, h0 rfl⟩), rfl⟩
  | setCursor _ _ =>
    obtain ⟨hr, ho, -, -⟩ := fields_of_fits (op := 6) (m1 := 0) (m0 := 0) h
    exact ⟨.setCursor _ _, decodeReq_of_encode (packReq_eq_req.mpr ⟨hr, ho, rfl, rfl⟩), rfl⟩
  | gotoAddr _ =>
    obtain ⟨hr, ho, h1, -⟩ := fields_of_fits (op := 7) (m1 := 0xFF) (m0 := 0) h
    exact ⟨.gotoAddr _, decodeReq_of_encode (packReq_eq_req.mpr ⟨hr, ho, h1 rfl, rfl⟩), rfl⟩
  | _ => cases h

/-- Each bit the mask of a row covers is the row's in a transfer that fits it. -/
theorem getLsbD_of_fits {row : TableRow} {t : BitVec 9} (h : row.fits (.lcd t) = true) (k : Nat)
    (hk : row.mask.testBit k = true) : t.getLsbD k = row.pat.testBit k := by
  simp only [TableRow.fits, Encoded.bits, Bool.and_eq_true, beq_iff_eq] at h
  rw [← h.2, Nat.testBit_and, hk, Bool.and_true, BitVec.testBit_toNat]

/-- A transfer that fits a row is dispatched to it: the row gives every bit down to the leading 1. -/
theorem decodeTransfer_row_of_fits {t : BitVec 9} (h : (tableRow i).fits (.lcd t) = true) :
    tableRow (decodeTransfer (t.getLsbD 8) (t.extractLsb' 0 8)) = tableRow i := by
  have hbit := getLsbD_of_fits h
  cases i
  case init | writeCmd | writeChar | clear | home | setCursor | gotoAddr => cases h
  all_goals
    simp only [tableRow] at hbit
    simp (disch := decide) [decodeTransfer, tableRow, hbit, Nat.testBit, -BitVec.getLsbD_eq_getElem]

/-- What fits a row decodes to an instruction of that row (R71, R81). -/
theorem decode_row_of_fits {e : Encoded} (h : (tableRow i).fits e = true) :
    ∃ k, decode e = .ok k ∧ tableRow k = tableRow i := by
  cases e with
  | req w => exact decodeReq_row_of_fits h
  | lcd t => exact ⟨_, rfl, decodeTransfer_row_of_fits h⟩

end Sys2Proof
end

section
/-! SUPPORT. Request words as numbers: which they are (30_encoding.md R73, R74), what writing any other does
(60_exceptions.md R222), and the words of the assembler's lines (30_encoding.md R76, R77). -/

namespace Sys2Proof.Machine

variable {s : State} {w : Word}

/-! ### Which words are requests -/

/-- A request word as a number: `OP` from bit 16, `ARG1` from bit 8, `ARG0` from bit 0 (R70). -/
theorem packReq_eq_req_toNat {op : BitVec 4} {a1 a0 : Byte} :
    packReq op a1 a0 = .req w ↔ w.toNat = op.toNat * 0x10000 + a1.toNat * 0x100 + a0.toNat := by
  rw [packReq, Encoded.req.injEq, ← BitVec.toNat_inj, eq_comm]
  simp only [toNat_append_add, BitVec.ofNat_eq_ofNat, BitVec.toNat_ofNat]
  omega

/-- The numbers of the words that are requests: INIT, CLEAR and HOME, the three requests with one operand, and
SET_CURSOR with two. -/
def requestNumbers : Finset Nat :=
  {0x10000, 0x40000, 0x50000} ∪ Finset.Ico 0x20000 0x20100 ∪ Finset.Ico 0x30000 0x30100 ∪
    Finset.Ico 0x70000 0x70100 ∪ Finset.Ico 0x60000 0x70000

theorem mem_requestNumbers {n : Nat} : n ∈ requestNumbers ↔
    n = 0x10000 ∨ n = 0x40000 ∨ n = 0x50000 ∨ 0x20000 ≤ n ∧ n < 0x20100 ∨ 0x30000 ≤ n ∧ n < 0x30100 ∨
    0x70000 ≤ n ∧ n < 0x70100 ∨ 0x60000 ≤ n ∧ n < 0x70000 := by
  simp only [requestNumbers, Finset.mem_union, Finset.mem_insert, Finset.mem_singleton, Finset.mem_Ico, or_assoc]

theorem requestNumbers_card : requestNumbers.card = 66307 := by
  unfold requestNumbers
  rw [Finset.card_union_of_disjoint, Finset.card_union_of_disjoint, Finset.card_union_of_disjoint,
    Finset.card_union_of_disjoint]
  · simp only [Nat.card_Ico]
    rfl
  all_goals
    refine Finset.disjoint_left.mpr fun n => ?_
    simp only [Finset.mem_union, Finset.mem_insert, Finset.mem_singleton, Finset.mem_Ico]
    omega

/-- The words that decode are the words of the requests (R73). -/
theorem decodeReq_isOk_iff : (∃ i, decodeReq w = .ok i) ↔ w.toNat ∈ requestNumbers := by
  rw [mem_requestNumbers]
  constructor
  · rintro ⟨i, hi⟩
    have h := encode_of_decodeReq hi
    cases i
    case init | writeCmd | writeChar | clear | home | setCursor | gotoAddr =>
      have hw := packReq_eq_req_toNat.mp h
      simp only [BitVec.ofNat_eq_ofNat, BitVec.toNat_ofNat] at hw
      omega
    all_goals cases h
  · have h0 := fieldArg0_toNat w
    have h1 := fieldArg1_toNat w
    rintro (h | h | h | h | h | h | h)
    · exact ⟨.init, decodeReq_of_encode (packReq_eq_req_toNat.mpr h)⟩
    · exact ⟨.clear, decodeReq_of_encode (packReq_eq_req_toNat.mpr h)⟩
    · exact ⟨.home, decodeReq_of_encode (packReq_eq_req_toNat.mpr h)⟩
    · exact ⟨.writeCmd (fieldArg0 w), decodeReq_of_encode (packReq_eq_req_toNat.mpr (by simp; omega))⟩
    · exact ⟨.writeChar (fieldArg0 w), decodeReq_of_encode (packReq_eq_req_toNat.mpr (by simp; omega))⟩
    · exact ⟨.gotoAddr (fieldArg0 w), decodeReq_of_encode (packReq_eq_req_toNat.mpr (by simp; omega))⟩
    · exact ⟨.setCursor (fieldArg0 w) (fieldArg1 w),
        decodeReq_of_encode (packReq_eq_req_toNat.mpr (by simp; omega))⟩

/-- A write of a reserved word on an idle block is accepted, and loads nothing (R110, R222). -/
theorem step_writeReserved {rest : List Turn} (h : s.schedule = .host (.access ⟨0, 4, some w⟩) :: rest)
    (hb : s.busy = false) (hw : ∀ i, decodeReq w ≠ .ok i) :
    step s = .next (s.setSchedule rest).acceptReserved.drift := by
  unfold step State.move
  rw [h, ← State.popTurn_eq h]
  show runMove (s.requestMove w) = _
  rw [State.requestMove, if_neg (by simp [hb])]
  cases hd : decodeReq w with
  | ok i => exact absurd hd (hw i)
  | error e => rfl

/-- What the acceptance of a reserved word leaves: the violation of code 1, an empty plan, and the rest (R222). -/
theorem acceptReserved_accepted (hb : s.busy = false) : Accepted s false (some 1) [] s.acceptReserved.drift := by
  have h := State.acceptReserved_idle hb
  have hk := s.acceptReserved.drift_peerKept
  rw [h] at hk ⊢
  constructor
  case peer => simpa [State.loadPlan, PeerKept] using hk
  all_goals simp [State.loadPlan, Violation.code]

/-! ### The assembler -/

/-- A request's word is its encoding. -/
theorem requestWord_eq_some {i : Instr} : requestWord i = some w ↔ encode i = .req w := by
  unfold requestWord
  cases encode i with
  | req v => simp
  | lcd t => simp

/-- A one-operand line stands for one word, the number of its operation with the operand added, where the operand fits
in 8 bits (R76). -/
theorem operandWord_eq {f : Byte → Instr} {k : Nat}
    (hf : ∀ b, requestWord (f b) = some (BitVec.ofNat 32 (k + b.toNat))) (n : Nat) : operandWord f n = if n < 256 then some [BitVec.ofNat 32 (k + n)] else none := by
  unfold operandWord operandFits
  simp only [hf, decide_eq_true_eq]
  split
  · rename_i h
    rw [BitVec.toNat_ofNat, Nat.mod_eq_of_lt h]
    rfl
  · rfl

theorem requestWord_writeCmd (b : Byte) : requestWord (.writeCmd b) = some (BitVec.ofNat 32 (0x20000 + b.toNat)) :=
  requestWord_eq_some.mpr (packReq_eq_req_toNat.mpr (by simp; omega))

theorem requestWord_writeChar (b : Byte) : requestWord (.writeChar b) = some (BitVec.ofNat 32 (0x30000 + b.toNat)) :=
  requestWord_eq_some.mpr (packReq_eq_req_toNat.mpr (by simp; omega))

theorem requestWord_gotoAddr (a : Byte) : requestWord (.gotoAddr a) = some (BitVec.ofNat 32 (0x70000 + a.toNat)) :=
  requestWord_eq_some.mpr (packReq_eq_req_toNat.mpr (by simp; omega))

theorem requestWord_setCursor (c r : Byte) :
    requestWord (.setCursor c r) = some (BitVec.ofNat 32 (0x60000 + 256 * r.toNat + c.toNat)) :=
  requestWord_eq_some.mpr (packReq_eq_req_toNat.mpr (by simp; omega))

/-- A string's requests are its bytes up to the first sentinel (R142). -/
theorem expandString_eq_map (sentinel : Byte) : ∀ bytes : List Byte,
    expandString sentinel bytes = (bytes.takeWhile fun b => b != sentinel).map .writeChar
  | [] => rfl
  | b :: bs => by
    rw [expandString, List.takeWhile_cons]
    by_cases h : b = sentinel
    · simp [h]
    · simp [h, expandString_eq_map sentinel bs]

theorem assemble_setcurLine (sentinel : Byte) (n m : Nat) : assemble sentinel (.setcurLine n m) =
    if n < 256 ∧ m < 256 then some [BitVec.ofNat 32 (0x60000 + 256 * m + n)] else none := by
  rw [assemble]
  by_cases hm : m < 256
  · have hr : (BitVec.ofNat 8 m).toNat = m := by rw [BitVec.toNat_ofNat, Nat.mod_eq_of_lt hm]
    rw [operandWord_eq (requestWord_setCursor · _), hr]
    simp [operandFits, hm]
  · simp [operandFits, hm]

theorem assemble_stringLine (sentinel : Byte) (bytes : List Byte) : assemble sentinel (.stringLine bytes) =
    some ((bytes.takeWhile fun b => b != sentinel).map fun b => BitVec.ofNat 32 (0x30000 + b.toNat)) := by
  rw [assemble, expandString_eq_map, List.filterMap_map]
  congr 1
  exact (List.filterMap_congr fun b _ => requestWord_writeChar b).trans (congrFun List.filterMap_eq_map _)

end Sys2Proof.Machine
end

section
/-! SUPPORT. Bytes on the lines: the two nibbles a peer samples of one (30_encoding.md R78) and the sum that makes a
set-DDRAM byte (R83). -/

namespace Sys2Proof.Machine

theorem hiNibble_eq_ofNat (b : Byte) : hiNibble b = BitVec.ofNat 4 (b.toNat / 16) := by
  refine BitVec.eq_of_toNat_eq ?_
  rw [hiNibble, BitVec.extractLsb'_toNat, Nat.shiftRight_eq_div_pow, BitVec.toNat_ofNat]

theorem loNibble_eq_ofNat (b : Byte) : loNibble b = BitVec.ofNat 4 (b.toNat % 16) := by
  refine BitVec.eq_of_toNat_eq ?_
  rw [loNibble, BitVec.extractLsb'_toNat, Nat.shiftRight_zero, BitVec.toNat_ofNat, Nat.mod_mod]

/-- From E = 1 a NIBBLE shows the peer its nibble once, on either edge of its strobe (R107, R182). -/
theorem latched_nibblePlan (edge : Config.Edge) (c : Config.Params) (d n : Nibble) (r : Bool) (p : Plan) :
    Plan.latched edge d r true (nibblePlan c n ++ p) = (r, n) :: Plan.latched edge n r true p := by
  cases edge with
  | falling => rfl
  | rising => rfl

/-- From E = 1 a BYTE shows the peer its two nibbles, the high one first, under its RS (R108, R109). -/
theorem latched_bytePlan (edge : Config.Edge) (c : Config.Params) (d : Nibble) (r' r : Bool) (b : Byte) :
    Plan.latched edge d r' true (bytePlan c r b) = byteLatches r b := by
  simp only [bytePlan, List.append_assoc, List.cons_append, List.nil_append, Plan.latched, latched_nibblePlan,
    byteLatches]

/-- A sum is an `or` where one number has only the digits the other has not. -/
theorem ddramCmd_eq_or {base v : Byte} {k a : Nat} (hbase : base.toNat = 2 ^ k * a) (hv : v.toNat < 2 ^ k) :
    ddramCmd base v = base ||| v := by
  have hor : base.toNat + v.toNat = (base ||| v).toNat := by
    rw [BitVec.toNat_or, hbase, Nat.two_pow_add_eq_or_of_lt hv]
  refine BitVec.eq_of_toNat_eq ?_
  rw [ddramCmd, BitVec.toNat_add, hor, Nat.mod_eq_of_lt (base ||| v).isLt]

end Sys2Proof.Machine
end

section
/-! SUPPORT. The statements on the encodings (30_encoding.md), settled. -/

namespace Sys2Proof.Machine

/-- Settles O1: `Decode` and `Encode` are inverse to each other, whatever the operands. -/
theorem decodeOfEncode : Obligations.DecodeOfEncode := by
  unfold Obligations.DecodeOfEncode
  exact fun i _ => decode_eq_ok_iff.mpr rfl

/-- Settles O2, by the other direction of the same equivalence. -/
theorem encodeOfDecode : Obligations.EncodeOfDecode := by
  unfold Obligations.EncodeOfDecode
  exact fun e i => decode_eq_ok_iff.mp

/-- Settles O3: the words that decode are those of a set of numbers, all of 32 bits, and that set is counted. -/
theorem requestWordCount : Obligations.RequestWordCount := by
  unfold Obligations.RequestWordCount
  have himage : BitVec.toNat '' {w : Word | ∃ i, decodeReq w = .ok i} = (requestNumbers : Set Nat) := by
    ext n
    simp only [Set.mem_image, Set.mem_ofPred_eq, decodeReq_isOk_iff, Finset.mem_coe]
    constructor
    · rintro ⟨w, hw, rfl⟩
      exact hw
    · intro hn
      have hlt : n < 2 ^ 32 := by
        have := mem_requestNumbers.mp hn
        omega
      have hnat : (BitVec.ofNat 32 n).toNat = n := by rw [BitVec.toNat_ofNat, Nat.mod_eq_of_lt hlt]
      exact ⟨BitVec.ofNat 32 n, hnat.symm ▸ hn, hnat⟩
  rw [← Set.ncard_image_of_injective _ BitVec.toNat_injective, himage, Set.ncard_coe_finset, requestNumbers_card]

/-- Settles O4: a word is reserved where its number is no request's, and its write ends in the acceptance of R222. -/
theorem reservedWordIsRecorded : Obligations.ReservedWordIsRecorded := by
  unfold Obligations.ReservedWordIsRecorded
  constructor
  · intro w
    have hlt := w.isLt
    rw [← not_exists, decodeReq_isOk_iff, mem_requestNumbers]
    omega
  · intro s w rest h hb hw
    exact ⟨_, step_writeReserved h hb hw, acceptReserved_accepted (s := s.setSchedule rest) hb⟩

/-- Settles O6: what fits a row decodes to an instruction of it, what decodes is one instruction's encoding, and every
instruction's encoding fits its row. -/
theorem tableRowsDoNotOverlap : Obligations.TableRowsDoNotOverlap := by
  unfold Obligations.TableRowsDoNotOverlap
  refine ⟨fun e i j hi hj => ?_, fun e i => decode_row_of_fits, fun e i h => ?_⟩
  · obtain ⟨k, hk, hki⟩ := decode_row_of_fits hi
    obtain ⟨l, hl, hlj⟩ := decode_row_of_fits hj
    obtain rfl : k = l := Except.ok.inj (hk.symm.trans hl)
    exact hki.symm.trans hlj
  · obtain rfl := decode_eq_ok_iff.mp h
    exact i.wellFormed_all

/-- Settles O32: a line with operands by the number of its request's word, a string by its WRITE_CHARs, and every other
line is its own word or none. -/
theorem assemblerWords : Obligations.AssemblerWords := by
  unfold Obligations.AssemblerWords
  intro sentinel n m bytes comment
  exact ⟨rfl, rfl, rfl, operandWord_eq requestWord_writeCmd n, operandWord_eq requestWord_writeChar n,
    operandWord_eq requestWord_gotoAddr n, assemble_setcurLine sentinel n m, by simp [assemble, wordFits],
    assemble_stringLine sentinel bytes, rfl, rfl, rfl⟩

/-- Settles O5, by running the decoder on each word. -/
theorem specWordsDecode : Obligations.SpecWordsDecode := by
  unfold Obligations.SpecWordsDecode
  decide

/-- Settles O29: 0x80 is a multiple of 2 ^ 7 and 0xC0 of 2 ^ 6, so an operand below that is put into the low bits; above
it the sum wraps. -/
theorem ddramCommandByte : Obligations.DdramCommandByte := by
  unfold Obligations.DdramCommandByte
  have hsum (base v : Byte) : (ddramCmd base v).toNat = (base.toNat + v.toNat) % 256 := BitVec.toNat_add base v
  refine ⟨hsum, fun v hv => ddramCmd_eq_or (k := 7) (a := 1) rfl (by omega),
    fun v hv => ddramCmd_eq_or (k := 6) (a := 3) rfl (by omega), fun v hv => ?_, fun v hv => ?_⟩
  · rw [hsum]
    simp only [BitVec.ofNat_eq_ofNat, BitVec.toNat_ofNat]
    omega
  · rw [hsum]
    simp only [BitVec.ofNat_eq_ofNat, BitVec.toNat_ofNat]
    omega

/-- Settles O30: the peer samples a byte's two nibbles, and these are the number's upper and lower four bits. -/
theorem nibbleSplit : Obligations.NibbleSplit := by
  unfold Obligations.NibbleSplit
  intro c r r' b d edge
  rw [latched_bytePlan, byteLatches, hiNibble_eq_ofNat, loNibble_eq_ofNat]

end Sys2Proof.Machine
end

section
/-! SUPPORT. The block's step: one that drives no E, and the cases of one that does (40_bus_primitives.md R101 to R105,
R111). -/

namespace Sys2Proof.Machine

variable {s u : State} {a : Action} {rest : Plan} {v : Bool}

/-- A block step that drives no E: what it makes of the block, the time it takes, and a peer that sees nothing of it. -/
theorem step_block_quiet (hm : s.blockMoves = true) (hp : s.plan = a :: rest) (ha : ∀ v, a ≠ .setE v) :
    ∃ t, step s = .next t ∧ BlockStepped (s.setSchedule s.turnTaken) a rest t ∧
      t.now = s.now + a.bound + freeDelay s.draws ∧ (s.peer.fault = none → t.peer = s.peer) := by
  obtain ⟨t, ht, hb⟩ := step_block hm hp
  refine ⟨t, ht, hb, ?_⟩
  rw [step_block_other hm hp ha] at ht
  cases ht
  refine ⟨?_, fun hf => ?_⟩
  · rw [State.drift_now, State.passTime_now, Nat.add_assoc]
    rfl
  · rw [State.drift_of_no_fault]
    exacts [rfl, hf]

/-- A block step that records nothing leaves the trace with the rest of the block (R104, R105). -/
theorem BlockStepped.sameBlock_of_no_event {t : State} (h : BlockStepped (s.setSchedule s.turnTaken) a rest t)
    (he : a.event = none) :
    SameBlock { s.headTaken rest with
      data := a.onData s.data, rs := a.onRs s.rs, e := a.onE s.e, mode := a.onMode s.mode, now := t.now } t := by
  simpa [he] using h.sameBlock

/-- A SetE that completes no byte: the time of the step follows (R103, R182). -/
theorem step_setE_none (hm : s.blockMoves = true) (hp : s.plan = .setE v :: rest)
    (hu : ((s.setSchedule s.turnTaken).performed (.setE v) rest).peerSees v s.data s.rs = (u, none)) :
    step s = .next (u.passTime 0).drift := by
  rw [step_eq_blockMove hm (by simp [hp]), blockMove_setE (s := s.setSchedule s.turnTaken) hp, State.setSchedule_data,
    State.setSchedule_rs, hu, runMove]

/-- A SetE that completes a byte: it is executed, and then the time of the step follows (R103, R182, R186). -/
theorem step_setE_some {i : Instr} (hm : s.blockMoves = true) (hp : s.plan = .setE v :: rest)
    (hu : ((s.setSchedule s.turnTaken).performed (.setE v) rest).peerSees v s.data s.rs = (u, some i)) :
    step s = afterTransfer (exec i u) := by
  rw [step_eq_blockMove hm (by simp [hp]), blockMove_setE (s := s.setSchedule s.turnTaken) hp, State.setSchedule_data,
    State.setSchedule_rs, hu, runMove]

/-- A peer that does not latch on the change of E only sees the level (R182). -/
theorem step_setE_unlatched {t : State} (hm : s.blockMoves = true) (hp : s.plan = .setE v :: rest)
    (hf : s.peer.fault = none) (hl : latchesOn s.cfg.latchEdge s.peer.lastE v = false) (ht : step s = .next t) :
    t.peer = { s.peer with lastE := v } := by
  have hsees := State.peerSees_quiet (s := (s.setSchedule s.turnTaken).performed (.setE v) rest) hl s.data s.rs
  rw [step_setE_none hm hp hsees] at ht
  cases ht
  rw [State.drift_of_no_fault]
  exacts [rfl, hf]

/-- An event on which the peer latches a low nibble under the RS of its high nibble (R182, R184). -/
theorem peerSees_latch_lo (he : latchesOn s.cfg.latchEdge s.peer.lastE v = true)
    (hc : s.cfg.peerTiming = false ∨ latchEarliest ≤ s.peerTime) (hi : s.peer.ifmode = .four)
    (hlo : s.peer.phase = .lo) (n : Nibble) {r : Bool} (hr : s.peer.hiRS = r) :
    s.peerSees v n r =
      (s.setPeer { s.peer with lastE := v, phase := .hi }, some (decodeTransfer r (s.peer.hiNib ++ n))) := by
  rw [State.peerSees_latch he]
  exact State.latch_lo (s := s.setPeer { s.peer with lastE := v }) hc hi hlo n hr

/-- The edge that latches a low nibble under the RS of its high nibble runs the byte of the two (R182, R184). -/
theorem step_latch_lo (hm : s.blockMoves = true) (hp : s.plan = .setE v :: rest)
    (he : latchesOn s.cfg.latchEdge s.peer.lastE v = true)
    (hc : s.cfg.peerTiming = false ∨ latchEarliest ≤ s.peerTime) (hi : s.peer.ifmode = .four)
    (hlo : s.peer.phase = .lo) (hr : s.peer.hiRS = s.rs) :
    step s = afterTransfer (exec (decodeTransfer s.rs (s.peer.hiNib ++ s.data))
      { s.headTaken rest with
        e := v, trace := s.trace ++ [(s.now, .e v)]
        peer := { s.peer with lastE := v, phase := .hi } }) := by
  have hsees := peerSees_latch_lo (s := (s.setSchedule s.turnTaken).performed (.setE v) rest) he hc hi hlo s.data hr
  exact step_setE_some hm hp hsees

end Sys2Proof.Machine
end

section
/-! SUPPORT. The host's steps (40_bus_primitives.md R110, R112): a request it writes, what its acceptance leaves, and
idling. -/

namespace Sys2Proof.Machine

variable {s : State} {q : List Turn}

/-- A write to REQ of a word that decodes, to a block that is not busy, runs the request (R110). -/
theorem step_writeRequest {w : Word} {i : Instr} (h : s.schedule = .host (.access ⟨0, 4, some w⟩) :: q)
    (hb : s.busy = false) (hw : decodeReq w = .ok i) : step s = exec i (s.setSchedule q) := by
  unfold step State.move
  rw [h, ← State.popTurn_eq h]
  show runMove (s.requestMove w) = _
  rw [State.requestMove, if_neg (by simp [hb]), hw, runMove]

/-- A request on a busy block changes nothing (R110). -/
theorem exec_request_busy {i : Instr} {p : Plan} (he : expand s.cfg i = some p) (hb : s.busy = true)
    (hf : s.peer.fault = none) : exec i s = .next s := by
  rw [exec_request he, State.acceptRequest_busy hb, State.drift_of_no_fault hf]

/-- What the acceptance of a request on an idle block leaves (R110). -/
theorem acceptRequest_accepted (hb : s.busy = false) (isInit : Bool) (p : Plan) :
    Accepted s isInit ((acceptViolation isInit s.mode).map Violation.code) p (s.acceptRequest isInit p).drift := by
  have h := State.acceptRequest_idle hb isInit p
  have hk := (s.acceptRequest isInit p).drift_peerKept
  rw [h] at hk ⊢
  constructor
  case peer => simpa [PeerKept] using hk
  case cv => cases acceptViolation isInit s.mode <;> simp [State.violateIf]
  case cause => cases acceptViolation isInit s.mode <;> simp [State.violateIf]
  all_goals simp

/-- What an idling host leaves: time has passed (R112 (c)). -/
theorem idled_frame (s : State) :
    (s.passTime 0).drift.now = s.now + freeDelay s.draws ∧ s.now ≤ (s.passTime 0).drift.now ∧
      SameBlock (s.setNow (s.passTime 0).drift.now) (s.passTime 0).drift ∧
      (s.peer.fault = none → (s.passTime 0).drift.peer = s.peer) := by
  refine ⟨by simp, by simp, by constructor <;> simp, fun hf => ?_⟩
  rw [State.drift_of_no_fault, State.passTime_peer]
  exact hf

/-- The idling host's turn, while the block is not busy (R112 (c)). -/
theorem step_idle (h : s.schedule = .host .idle :: q) (hb : s.busy = false) :
    step s = .next ((s.setSchedule q).passTime 0).drift := by
  unfold step State.move
  rw [h, ← State.popTurn_eq h]
  show runMove (if s.busy then s.blockMove else s.popTurn.idleMove) = _
  rw [if_neg (by simp [hb]), State.idleMove, runMove]

/-- With nothing scheduled and no plan the host idles (R112 (c)). -/
theorem step_unscheduled (h : s.schedule = []) (hp : s.plan = []) : step s = .next (s.passTime 0).drift := by
  unfold step State.move
  rw [h]
  show runMove (if s.plan.isEmpty then s.idleMove else s.blockMove) = _
  rw [hp, if_pos List.isEmpty_nil, State.idleMove, runMove]

end Sys2Proof.Machine
end

section
/-! SUPPORT. The placed instruction: what the bytes of a table word decode to, and the state whose next step runs it. -/

namespace Sys2Proof.Machine

variable {i : Instr} {w : Nat}

/-- A number's four bytes, the lowest first, make its word (R52). -/
theorem wordOfBytes_leBytes (w : Nat) :
    wordOfBytes (BitVec.ofNat 8 w) (BitVec.ofNat 8 (w / 256)) (BitVec.ofNat 8 (w / 256 / 256))
      (BitVec.ofNat 8 (w / 256 / 256 / 256)) = BitVec.ofNat 32 w := by
  refine BitVec.eq_of_toNat_eq ?_
  simp only [wordOfBytes, toNat_append_add, BitVec.toNat_ofNat]
  omega

/-- A 32-bit table word is decoded as the request word of its number. -/
theorem decodeReq_of_tableWord (h : decodeTableWord 32 w = some i) : decodeReq (BitVec.ofNat 32 w) = .ok i := by
  rw [decodeTableWord, if_neg (by decide)] at h
  simp only [leBytes, decodeReqBytes, wordOfBytes_leBytes] at h
  cases hd : decodeReq (BitVec.ofNat 32 w) with
  | ok j =>
    simp only [hd, wholeInstr, Option.ite_none_right_eq_some, Option.some.injEq] at h
    rw [h.2]
  | error e => simp [hd, wholeInstr] at h

/-- A table word of at most 16 bits is decoded as the transfer of its low byte under the RS of its bit 8. -/
theorem decodeTransfer_of_tableWord (h : decodeTableWord 16 w = some i) :
    decodeTransfer ((BitVec.ofNat 9 w).getLsbD 8) (BitVec.ofNat 8 w) = i := by
  have hrs : (BitVec.ofNat 8 (w / 256)).getLsbD 0 = (BitVec.ofNat 9 w).getLsbD 8 := by
    simp [BitVec.getLsbD_ofNat, Nat.testBit_eq_decide_div_mod_eq, -BitVec.getLsbD_eq_getElem]
  rw [decodeTableWord, if_pos le_rfl] at h
  simp only [leBytes, decodeLcdBytes, hrs] at h
  split_ifs at h
  · exact Option.some.inj h
  · cases h

/-- A byte is its two nibbles (R78). -/
theorem hiNibble_append_loNibble (b : Byte) : hiNibble b ++ loNibble b = b := by
  refine BitVec.eq_of_toNat_eq ?_
  rw [toNat_append_add, hiNibble_eq_ofNat, loNibble_eq_ofNat]
  simp only [BitVec.toNat_ofNat]
  omega

/-- What is left of a BYTE from the edge on which the peer latches its low nibble begins with that edge. -/
theorem fetchTransfer_edge (s : State) (r : Bool) (b : Byte) :
    ∃ v rest, (s.fetchTransfer r b).plan = .setE v :: rest ∧
      latchesOn s.cfg.latchEdge (s.fetchTransfer r b).peer.lastE v = true := by
  unfold State.fetchTransfer lastLatch
  cases hc : s.cfg.latchEdge with
  | falling => exact ⟨false, _, rfl, rfl⟩
  | rising => exact ⟨true, _, rfl, rfl⟩

/-- The LCD of a placed transfer has been powered for long enough (R197). -/
theorem fetchTransfer_onTime (s : State) (r : Bool) (b : Byte) :
    s.cfg.peerTiming = false ∨ latchEarliest ≤ (s.fetchTransfer r b).peerTime := by
  cases ht : s.cfg.peerTiming with
  | false => exact .inl rfl
  | true =>
    right
    simp only [State.fetchTransfer, State.peerTime, ht, if_true]
    omega

/-- The step after placing a transfer runs it, on a state with the peer's memory, cursor, lines and fault, the
parameters and the time as they were. -/
theorem step_fetchTransfer (s : State) (r : Bool) (b : Byte) :
    ∃ u, step (s.fetchTransfer r b) = afterTransfer (exec (decodeTransfer r b) u) ∧ u.peer.ddram = s.peer.ddram ∧
      u.peer.ac = s.peer.ac ∧ u.peer.lines2 = s.peer.lines2 ∧ u.peer.fault = s.peer.fault ∧ u.cfg = s.cfg ∧
      u.now = s.now := by
  obtain ⟨v, rest, hp, he⟩ := fetchTransfer_edge s r b
  have hstep := step_latch_lo rfl hp he (fetchTransfer_onTime s r b) rfl rfl rfl
  have hbyte : (s.fetchTransfer r b).peer.hiNib ++ (s.fetchTransfer r b).data = b := hiNibble_append_loNibble b
  rw [hbyte] at hstep
  exact ⟨_, hstep, rfl, rfl, rfl, rfl, rfl, rfl⟩

end Sys2Proof.Machine
end

section
/-! SUPPORT. The plans of the requests: their strobes, their modes and what a peer samples of them (40_bus_primitives.md
R105, R108, R109). -/

namespace Sys2Proof.Machine

variable {c : Config.Params} {i : Instr} {p : Plan}

/-- A NIBBLE is a SetData with its strobe (R107, R109). -/
@[simp] theorem framed_nibblePlan (c : Config.Params) (n : Nibble) (p : Plan) :
    Plan.framed c (nibblePlan c n ++ p) = Plan.framed c p := by
  simp [nibblePlan, strobe, Plan.framed]

@[simp] theorem framed_bytePlan (c : Config.Params) (r : Bool) (b : Byte) (p : Plan) :
    Plan.framed c (bytePlan c r b ++ p) = Plan.framed c p := by
  simp only [bytePlan, List.append_assoc, List.cons_append, List.nil_append, Plan.framed, framed_nibblePlan]

/-- From E = 1 a BYTE shows the peer its two nibbles, and then comes what follows it (R108, R109). -/
theorem latched_bytePlan_append (edge : Config.Edge) (c : Config.Params) (d : Nibble) (r' r : Bool) (b : Byte)
    (p : Plan) : Plan.latched edge d r' true (bytePlan c r b ++ p) =
      byteLatches r b ++ Plan.latched edge (loNibble b) r true p := by
  simp only [bytePlan, List.append_assoc, List.cons_append, List.nil_append, Plan.latched, latched_nibblePlan,
    byteLatches]

/-- Every strobe of a request is a nibble's own (R109 (b)). -/
theorem expand_framed (h : expand c i = some p) : Plan.framed c p = true := by
  have hbyte (r : Bool) (b : Byte) : Plan.framed c (bytePlan c r b) = true := by
    rw [← List.append_nil (bytePlan c r b), framed_bytePlan, Plan.framed]
  cases i <;> simp only [expand, Option.some.injEq, reduceCtorEq] at h <;> subst h
  case init => simp [initPlan, initOrder, initSegment, bootPlan, clearPlan, Plan.framed]
  case clear => simp [clearPlan, Plan.framed]
  case home => simp [homePlan, Plan.framed]
  case setCursor column row =>
    obtain ⟨b, hp⟩ | hp := setCursorPlan_cases c column row <;> rw [hp]
    · exact hbyte false b
    · rfl
  all_goals exact hbyte _ _

/-- From E = 1 a peer samples of a request's plan the nibbles it stands for (R109 (d)). -/
theorem expand_latched (h : expand c i = some p) (edge : Config.Edge) (d : Nibble) (r : Bool) :
    Plan.latched edge d r true p = requestLatches i := by
  cases i <;> simp only [expand, Option.some.injEq, reduceCtorEq] at h <;> subst h
  case init =>
    simp [initPlan, initOrder, initSegment, bootPlan, clearPlan, Plan.latched, latched_nibblePlan,
      latched_bytePlan_append, requestLatches, boot8Bit, boot4Bit, cmdFunctionSet, cmdEntryMode, cmdDisplayCtrl,
      cmdClear]
  case clear => simp [clearPlan, latched_bytePlan_append, Plan.latched, requestLatches, cmdClear]
  case home => simp [homePlan, latched_bytePlan_append, Plan.latched, requestLatches, cmdHome]
  case setCursor column row =>
    simp only [setCursorPlan, requestLatches]
    split_ifs
    · exact latched_bytePlan ..
    · exact latched_bytePlan ..
    · rfl
  all_goals exact latched_bytePlan ..

/-- INIT's plan sets the modes BOOT8 and READY only (R105, R121). -/
theorem initPlan_setMode {m : Mode} (h : .setMode m ∈ initPlan c) : m = .boot8 ∨ m = .ready := by
  obtain ⟨p, q, hpq, -, hkp, hkq⟩ := initPlan_split c
  rw [hpq] at h
  simp only [List.cons_append, List.mem_cons, List.mem_append, Action.setMode.injEq] at h
  obtain h | h | h | h := h
  · exact .inl h
  · cases hkp _ h
  · exact .inr h
  · cases hkq _ h

/-- No request but INIT sets the mode (R105). -/
theorem expand_keepsMode (h : expand c i = some p) (hi : i ≠ .init) : p.all Action.keepsMode = true := by
  cases i <;> simp only [expand, Option.some.injEq, reduceCtorEq] at h <;> subst h
  case init => exact absurd rfl hi
  case setCursor column row =>
    obtain ⟨b, hp⟩ | hp := setCursorPlan_cases c column row <;> rw [hp] <;> rfl
  all_goals rfl

end Sys2Proof.Machine
end

section
/-! SUPPORT. The statements on the bus primitives (40_bus_primitives.md), settled. -/

namespace Sys2Proof.Machine

/-- Settles O9: the placed write is accepted with its turn spent, and the placed byte is completed by the next edge. -/
theorem fetchedWordRuns : Obligations.FetchedWordRuns := by
  unfold Obligations.FetchedWordRuns
  refine ⟨fun s w i h => ?_, fun s w i h => ?_⟩
  · exact step_writeRequest (s := s.fetchRequest (BitVec.ofNat 32 w)) rfl rfl (decodeReq_of_tableWord h)
  · rw [← decodeTransfer_of_tableWord h]
    exact step_fetchTransfer s _ _

/-- Settles O10: the step is the block's, which keeps a held turn, and a busy block accepts nothing. -/
theorem requestIsHeldWhileBusy : Obligations.RequestIsHeldWhileBusy := by
  unfold Obligations.RequestIsHeldWhileBusy
  refine ⟨fun s w q hq hb hp => ?_, fun i s p => exec_request_busy⟩
  obtain ⟨a, rest, hp⟩ := List.exists_cons_of_ne_nil hp
  obtain ⟨t, ht, h⟩ := step_block (by simp [State.blockMoves, hq, hb]) hp
  have hturn : s.turnTaken = s.schedule := by rw [State.turnTaken, hq]
  refine ⟨t, ht, h.schedule.trans hturn, by rw [h.plan, hp, List.tail_cons], ?_, h.cv, h.cause⟩
  rw [h.busy, State.setSchedule_busy, hb, hp]
  cases rest <;> rfl

/-- Settles O11: a block step that drives DATA. -/
theorem setDataStep : Obligations.SetDataStep := by
  unfold Obligations.SetDataStep
  intro s n rest hm hp
  obtain ⟨t, ht, h, -, hpeer⟩ := step_block_quiet hm hp nofun
  exact ⟨t, ht, h.data, h.trace, h.now, h.sameBlock, hpeer⟩

/-- Settles O12: a block step that drives RS, and the plan of a BYTE from its head. -/
theorem setRsStep : Obligations.SetRsStep := by
  unfold Obligations.SetRsStep
  refine ⟨fun s v rest hm hp => ?_, fun c r b => rfl⟩
  obtain ⟨t, ht, h, -, hpeer⟩ := step_block_quiet hm hp nofun
  exact ⟨t, ht, h.rs, h.trace, h.now, h.sameBlock, hpeer⟩

/-- Settles O13: a block step that drives E, and the case in which the peer does not latch. -/
theorem setEStep : Obligations.SetEStep := by
  unfold Obligations.SetEStep
  intro s v rest hm hp
  obtain ⟨t, ht, h⟩ := step_block hm hp
  exact ⟨t, ht, h.e, h.trace, h.now, h.sameBlock, h.lastE, fun hf hl => step_setE_unlatched hm hp hf hl ht⟩

/-- Settles O14: a block step that drives no line and takes its bound and a free time more. -/
theorem waitStep : Obligations.WaitStep := by
  unfold Obligations.WaitStep
  intro s d rest hm hp
  obtain ⟨t, ht, h, hnow, hpeer⟩ := step_block_quiet hm hp nofun
  exact ⟨t, ht, hnow, h.now, h.sameBlock_of_no_event rfl, hpeer⟩

/-- Settles O15: a block step that drives no line, and of the plans of requests only INIT's has a SetMode. -/
theorem setModeStep : Obligations.SetModeStep := by
  unfold Obligations.SetModeStep
  refine ⟨fun s m rest hm hp => ?_, fun c i p m he hmem => ?_⟩
  · obtain ⟨t, ht, h, hnow, hpeer⟩ := step_block_quiet hm hp nofun
    exact ⟨t, ht, h.mode, hnow, h.now, h.sameBlock_of_no_event rfl, hpeer⟩
  · by_cases hi : i = .init
    · subst hi
      cases he
      exact ⟨rfl, initPlan_setMode hmem⟩
    · cases List.all_eq_true.mp (expand_keepsMode he hi) _ hmem

/-- Settles O16: the block's step for any action, and the run of a plan, by induction, one step an action. -/
theorem sequencerStep : Obligations.SequencerStep := by
  unfold Obligations.SequencerStep
  refine ⟨fun s a rest hm hp => ?_, fun s hq hp => ?_⟩
  · obtain ⟨t, ht, h⟩ := step_block hm hp
    refine ⟨t, ht, h.schedule, h.plan, fun hr => by simp [h.busy, hr], fun hr => by simp [h.busy, hr], h.trace, ?_⟩
    have hnow := h.now
    cases a <;> exact hnow
  · obtain ⟨t, ht, h⟩ := run_plan rfl hq
    exact ⟨t, ht, h.plan, by simp [h.busy, hp]⟩

/-- Settles O19, request by request from what a NIBBLE and a BYTE are to each reader of a plan. -/
theorem requestsAreFramed : Obligations.RequestsAreFramed := by
  unfold Obligations.RequestsAreFramed
  exact fun c i p h => ⟨expand_framed h, expand_strobeOk h, expand_modeOk h nofun, expand_latched h⟩

/-- Settles O24: INIT's acceptance, with the violation R110 gives its mode. -/
theorem initIsAccepted : Obligations.InitIsAccepted := by
  unfold Obligations.InitIsAccepted
  intro s hb
  have hcode : (acceptViolation true s.mode).map Violation.code = if s.mode = .uninit then none else some 3 := by
    cases s.mode <;> rfl
  exact ⟨_, exec_request rfl, hcode ▸ acceptRequest_accepted hb true (initPlan s.cfg)⟩

/-- Settles O7: the host's write is accepted with its turn spent. -/
theorem stepRunsRequestWord : Obligations.StepRunsRequestWord := by
  unfold Obligations.StepRunsRequestWord
  exact fun s w q i => step_writeRequest

/-- Settles O8: the block's SetE is the edge that latches the low nibble. -/
theorem stepRunsTransfer : Obligations.StepRunsTransfer := by
  unfold Obligations.StepRunsTransfer
  exact fun s v rest h => step_latch_lo h.moves h.plan h.edge h.onTime

/-- Settles O18: a byte's plan written out, with its nibbles as numbers, and the sums of its waits. -/
theorem byteActions : Obligations.ByteActions := by
  unfold Obligations.ByteActions
  intro c r b
  refine ⟨?_, ?_, fun t => rfl⟩
  · rw [← hiNibble_eq_ofNat, ← loNibble_eq_ofNat]
    rfl
  · simp only [bytePlan, nibblePlan, strobe, List.cons_append, List.nil_append, Plan.minDuration, Action.bound]
    omega

/-- Settles O44: an idling host lets time pass, on its own turn or with nothing scheduled. -/
theorem idleHoldsTheLines : Obligations.IdleHoldsTheLines := by
  unfold Obligations.IdleHoldsTheLines
  exact ⟨fun s q hq hb => ⟨_, step_idle hq hb, idled_frame (s.setSchedule q)⟩,
    fun s hq hp => ⟨_, step_unscheduled hq hp, idled_frame s⟩⟩

end Sys2Proof.Machine
end

section
/-! SUPPORT. What a plan adds up to and where it leaves the lines and MODE: the sum of its waits (R251), its strobes
(R106), and its run to the end, action by action (40_bus_primitives.md R101 to R105, R111). -/

namespace Sys2Proof.Machine

/-! ### Sums over a plan -/

theorem Plan.minDuration_append (p q : Plan) :
    Plan.minDuration (p ++ q) = Plan.minDuration p + Plan.minDuration q := by
  induction p with
  | nil => exact (Nat.zero_add _).symm
  | cons a p ih => rw [List.cons_append, Plan.minDuration, Plan.minDuration, ih, Nat.add_assoc]

/-- The waits as a plan's run counts them are its minimum duration. -/
theorem Plan.sum_bound (p : Plan) : (p.map Action.bound).sum = Plan.minDuration p := by
  induction p with
  | nil => rfl
  | cons a p ih => rw [List.map_cons, List.sum_cons, ih, Plan.minDuration]

theorem minDuration_bytePlan (c : Config.Params) (r : Bool) (b : Byte) :
    Plan.minDuration (bytePlan c r b) = c.tRs + 2 * (c.tPre + c.tEl + c.tEh) + c.tExec := by
  obtain ⟨-, h, -⟩ := byteActions c r b
  exact h

theorem minDuration_bootPlan (c : Config.Params) (n : Nibble) :
    Plan.minDuration (bootPlan c n) = c.tPre + c.tEl + c.tEh + c.tBoot := by
  simp only [bootPlan, nibblePlan, strobe, List.cons_append, List.nil_append, Plan.minDuration, Action.bound]
  omega

theorem Plan.strobes_append (p q : Plan) : Plan.strobes (p ++ q) = Plan.strobes p + Plan.strobes q :=
  List.count_append

/-- A byte is sent by two strobes, one a nibble (R108). -/
theorem strobes_bytePlan (c : Config.Params) (r : Bool) (b : Byte) : Plan.strobes (bytePlan c r b) = 2 := rfl

theorem strobes_bootPlan (c : Config.Params) (n : Nibble) : Plan.strobes (bootPlan c n) = 1 := rfl

/-! ### INIT's segments -/

/-- INIT's plan with its segments written out (R121). -/
theorem initPlan_eq (c : Config.Params) : initPlan c =
    [.setMode .boot8, .setRs false, .wait c.tPowerOn] ++ bootPlan c boot8Bit ++ bootPlan c boot8Bit
      ++ bootPlan c boot8Bit ++ bootPlan c boot4Bit ++ [.setMode .ready] ++ bytePlan c false cmdFunctionSet
      ++ bytePlan c false cmdEntryMode ++ bytePlan c false cmdDisplayCtrl
      ++ (bytePlan c false cmdClear ++ [.wait c.tClr]) := by
  simp [initPlan, initOrder, initSegment, clearPlan]

/-- INIT has one strobe for each bootstrap pattern and two for each of its four bytes (R123). -/
theorem strobes_initPlan (c : Config.Params) : Plan.strobes (initPlan c) = 12 := by
  simp only [initPlan_eq, Plan.strobes_append, strobes_bootPlan, strobes_bytePlan]
  rfl

/-- INIT's minimum duration: the power-on wait, four bootstrap patterns, four bytes and CLEAR's settle (R123). -/
theorem minDuration_initPlan (c : Config.Params) : Plan.minDuration (initPlan c) =
    c.tPowerOn + 4 * (c.tPre + c.tEl + c.tEh + c.tBoot)
      + 4 * (c.tRs + 2 * (c.tPre + c.tEl + c.tEh) + c.tExec) + c.tClr := by
  simp only [initPlan_eq, Plan.minDuration_append, minDuration_bootPlan, minDuration_bytePlan, Plan.minDuration,
    Action.bound]
  omega

/-! ### Where a plan leaves the lines and MODE -/

/-- DATA after a plan, from the level `d`. -/
def Plan.endData (d : Nibble) (p : Plan) : Nibble := p.foldl (fun d a => a.onData d) d

/-- RS after a plan, from the level `r`. -/
def Plan.endRs (r : Bool) (p : Plan) : Bool := p.foldl (fun r a => a.onRs r) r

/-- E after a plan, from the level `e`. -/
def Plan.endE (e : Bool) (p : Plan) : Bool := p.foldl (fun e a => a.onE e) e

/-- MODE after a plan, from the mode `m`. -/
def Plan.endMode (m : Mode) (p : Plan) : Mode := p.foldl (fun m a => a.onMode m) m

/-- `t` has the lines and MODE where the plan `p`, run from `s`, leaves them. -/
structure LinesRun (s : State) (p : Plan) (t : State) : Prop where
  data : t.data = p.endData s.data
  rs : t.rs = p.endRs s.rs
  e : t.e = p.endE s.e
  mode : t.mode = p.endMode s.mode

/-- The block's step and then the run of the rest of the plan leave the lines and MODE where the plan does. -/
theorem LinesRun.cons {s t u : State} {a : Action} {rest : Plan} (hb : BlockStepped s a rest u)
    (h : LinesRun u rest t) : LinesRun s (a :: rest) t where
  data := by rw [h.data, hb.data]; rfl
  rs := by rw [h.rs, hb.rs]; rfl
  e := by rw [h.e, hb.e]; rfl
  mode := by rw [h.mode, hb.mode]; rfl

/-- With nothing scheduled, the block's run of its plan leaves the lines and MODE where the plan does. -/
theorem run_plan_lines {s t : State} {p : Plan} (hp : s.plan = p) (hq : s.schedule = [])
    (h : core.run p.length s = .next t) : LinesRun s p t := by
  induction p generalizing s with
  | nil =>
    cases h
    exact ⟨rfl, rfl, rfl, rfl⟩
  | cons a rest ih =>
    have hm : s.blockMoves = true := by rw [State.blockMoves, hq]
    have hturn : s.turnTaken = s.schedule := by rw [State.turnTaken, hq]
    obtain ⟨u, hu, hb⟩ := step_block hm hp
    rw [hturn] at hb
    have hrun : core.run rest.length u = .next t := (core_run_succ hu rest.length).symm.trans h
    exact (ih hb.plan (hb.schedule.trans hq) hrun).cons hb

end Sys2Proof.Machine
end

section
/-! SUPPORT. The initialisation state machine (41_initialize.md R122) along a running INIT: the state a tail of its plan is
in, and the state its next action leads to. -/

namespace Sys2Proof.Machine

variable {s t : State} {before after : List InitState} {q : InitState} {passed left : Plan} {a : Action}

/-- INIT's plan, cut within the segment of one of its states. -/
theorem initPlan_cut {c : Config.Params} (hq : initOrder = before ++ q :: after)
    (hseg : initSegment c q = passed ++ left) :
    initPlan c = (before.flatMap (initSegment c) ++ passed) ++ (left ++ after.flatMap (initSegment c)) := by
  simp only [initPlan, hq, List.flatMap_append, List.flatMap_cons, hseg, List.append_assoc]

/-- Every state INIT passes through has something to do (R122). -/
theorem initSegment_ne_nil (c : Config.Params) (hq : q ∈ initOrder) : initSegment c q ≠ [] := by
  cases q with
  | uninit => exact absurd hq (by decide)
  | ready => exact absurd hq (by decide)
  | _ => exact List.cons_ne_nil _ _

/-- The column MODE of the busy states (R122). -/
theorem initState_mode_of_mem : ∀ q ∈ initOrder,
    q.mode = if q ∈ [.pwr, .boot1, .boot2, .boot3, .switch4] then .boot8 else .ready := by
  decide

/-- A running INIT with some of a state's segment left, and the later segments, is in that state (R122). -/
theorem State.initState_of_segment (hq : initOrder = before ++ q :: after) (hn : left ≠ [])
    (hl : left <:+ initSegment s.cfg q) (hp : s.plan = left ++ after.flatMap (initSegment s.cfg))
    (hr : s.initRun = true) : s.initState = some q := by
  obtain ⟨passed, hseg⟩ := hl
  have hs : s.plan <:+ initPlan s.cfg := ⟨_, hp ▸ (initPlan_cut hq hseg.symm).symm⟩
  rw [State.initState_running hr (by simp [hp, hn]) hs, hp, initStateFrom_segment hq hn ⟨passed, hseg⟩]

/-- An INIT that has begun has less than its whole plan left. -/
theorem plan_ne_initPlan (hq : initOrder = before ++ q :: after) (hseg : initSegment s.cfg q = passed ++ left)
    (hp : s.plan = left ++ after.flatMap (initSegment s.cfg)) (hbegun : q ≠ .pwr ∨ passed ≠ []) :
    s.plan ≠ initPlan s.cfg := by
  intro hall
  rw [initPlan_cut hq hseg, ← hp, List.self_eq_append_left, List.append_eq_nil_iff] at hall
  obtain ⟨hbefore, hpassed⟩ := hall
  cases before with
  | nil =>
    cases hq
    exact hbegun.elim (· rfl) (· hpassed)
  | cons b before =>
    have hb : b ∈ initOrder := by simp [hq]
    exact initSegment_ne_nil s.cfg hb (List.append_eq_nil_iff.mp hbefore).1

/-- Once INIT's first action is performed, MODE is the state's (R122). -/
theorem State.Inv.initMode (h : s.Inv) (hq : initOrder = before ++ q :: after)
    (hseg : initSegment s.cfg q = passed ++ left) (hn : left ≠ [])
    (hp : s.plan = left ++ after.flatMap (initSegment s.cfg)) (hr : s.initRun = true)
    (hbegun : q ≠ .pwr ∨ passed ≠ []) : s.mode = q.mode := by
  obtain ⟨-, -, hmode⟩ := h.initRuns hr
  rw [hmode.resolve_left (plan_ne_initPlan hq hseg hp hbegun), hp, initStateFrom_segment hq hn ⟨passed, hseg.symm⟩]

/-- What is scheduled plays no part in the invariant. -/
theorem State.Inv.setSchedule (h : s.Inv) (l : List Turn) : (s.setSchedule l).Inv :=
  ⟨h.busyPlan, h.strobes, h.modes, h.lastE, h.causes, h.times, h.initRuns, h.memory⟩

/-- INIT's last action leaves the machine idle in S_READY (R122). -/
theorem BlockStepped.initState_last (hb : BlockStepped s a [] t) (h : s.Inv) (hp : s.plan = [a])
    (hr : s.initRun = true) : t.initState = some .ready := by
  obtain ⟨-, hsuffix, hmode⟩ := h.initRuns hr
  rw [hp] at hsuffix hmode
  have hready : t.mode = .ready := by
    rw [hb.mode, initTail_mode hsuffix hmode, initStateFrom_mode, List.length_nil, if_neg (by omega)]
  rw [State.initState_idle hb.plan, hready]

/-- The block's step within a state's segment stays in the state, and the segment's last action leads to the next state of
the table (R122). -/
theorem BlockStepped.initState_next (hb : BlockStepped s a (left ++ after.flatMap (initSegment s.cfg)) t) (h : s.Inv)
    (hq : initOrder = before ++ q :: after) (hl : left <:+ initSegment s.cfg q)
    (hp : s.plan = a :: left ++ after.flatMap (initSegment s.cfg)) (hr : s.initRun = true) :
    t.initState = if left = [] then (after ++ [InitState.ready]).head? else some q := by
  have hrun (hne : left ++ after.flatMap (initSegment s.cfg) ≠ []) : t.initRun = true := by
    rw [hb.initRun, if_neg (mt List.isEmpty_iff.mp hne), hr]
  split
  next hleft =>
    subst hleft
    cases after with
    | nil => exact hb.initState_last h hp hr
    | cons r after =>
      have hne : initSegment s.cfg r ≠ [] := initSegment_ne_nil s.cfg (by simp [hq])
      exact State.initState_of_segment (before := before ++ [q]) (left := initSegment s.cfg r) (after := after)
        (by simp [hq]) hne (by rw [hb.cfg]) (by rw [hb.plan, hb.cfg]; rfl) (hrun (by simp [hne]))
  next hleft =>
    exact State.initState_of_segment hq hleft (hb.cfg.symm ▸ hl) (by rw [hb.plan, hb.cfg]) (hrun (by simp [hleft]))

/-- In the invariant a running INIT is in one of the busy states (R122). -/
theorem State.Inv.initState_busy (h : s.Inv) (hr : s.initRun = true) : ∃ q ∈ initOrder, s.initState = some q := by
  obtain ⟨hne, hsuffix, -⟩ := h.initRuns hr
  exact ⟨_, initStateFrom_mem s.cfg (List.length_pos_iff.mpr hne) (by decide), State.initState_running hr hne hsuffix⟩

/-- A reset at the head of the schedule is the next step (R240). -/
theorem step_reset {rest : List Turn} (h : s.schedule = .reset :: rest) :
    ∃ t, step s = .next t ∧ ResetStepped s.popTurn t := by
  unfold step State.move
  rw [h]
  exact resetMove_step s.popTurn

/-- An accepted INIT has its whole plan left, and so is in S_PWR (R120, R122). -/
theorem Accepted.initState_pwr {v : Option (BitVec 3)} (h : Accepted s true v (initPlan s.cfg) t) :
    t.initState = some .pwr :=
  State.initState_of_segment (before := []) (left := initSegment t.cfg .pwr) rfl (initSegment_ne_nil t.cfg (by decide))
    List.suffix_rfl (by rw [h.plan, h.cfg]; rfl) h.initRun

end Sys2Proof.Machine
end

section
/-! SUPPORT. The statements on INIT (41_initialize.md), settled. -/

namespace Sys2Proof.Machine

/-- Settles O20: the segments in order are the spec's list, and its strobes and its waits add up segment by segment. -/
theorem initActions : Obligations.InitActions := by
  unfold Obligations.InitActions
  exact fun c => ⟨by rw [initPlan_eq]; rfl, initPlan_length c, strobes_initPlan c, minDuration_initPlan c⟩

/-- Settles O21: the accepted plan is run to its end, which leaves the lines and MODE where INIT's plan does and takes its
minimum duration or longer. -/
theorem initRunsToReady : Obligations.InitRunsToReady := by
  unfold Obligations.InitRunsToReady
  intro s hb hq
  have ha := acceptRequest_accepted hb true (initPlan s.cfg)
  obtain ⟨u, hu, hr⟩ := run_plan ha.plan (ha.schedule.trans hq)
  have hl := run_plan_lines ha.plan (ha.schedule.trans hq) hu
  refine ⟨_, u, exec_request rfl, hu, hl.mode, hr.busy, hr.plan, hl.e, hl.rs, hl.data, fun hc => ?_⟩
  have htime := hr.time
  rw [Plan.sum_bound, minDuration_initPlan, ha.now, hc] at htime
  exact htime

/-- Settles O23, row by row: a running INIT's state is that of the segment its next action is in, an idle machine's is its
mode's, and a reset and another request's acceptance leave no running INIT. -/
theorem initStateMachine : Obligations.InitStateMachine := by
  unfold Obligations.InitStateMachine
  refine ⟨fun s hb => ?_, fun before after q passed left a s hq hseg hp hr => ?_, fun s => State.Inv.initState_busy,
    fun s hp hm => ?_, fun s hp hm => ?_, fun s rest h => ?_, fun i s p he hi hp hb => ?_⟩
  · have ha := acceptRequest_accepted hb true (initPlan s.cfg)
    exact ⟨_, exec_request rfl, ha.initState_pwr, ha.busy, ha.mode⟩
  · have hn : a :: left ≠ [] := List.cons_ne_nil a left
    have hl : a :: left <:+ initSegment s.cfg q := ⟨passed, hseg.symm⟩
    have hmem : q ∈ initOrder := by simp [hq]
    refine ⟨State.initState_of_segment hq hn hl hp hr, fun h => ⟨?_, fun hbegun => ?_, fun hm => ?_⟩⟩
    · rw [h.busyPlan, hp]
      rfl
    · rw [h.initMode hq hseg hn hp hr hbegun, initState_mode_of_mem q hmem]
    · obtain ⟨t, ht, hb⟩ := step_block hm hp
      exact ⟨t, ht, hb.initState_next (h.setSchedule s.turnTaken) hq ((List.suffix_cons a left).trans hl) hp hr⟩
  · rw [State.initState_idle hp, hm]
  · rw [State.initState_idle hp, hm]
  · obtain ⟨t, ht, hreset⟩ := step_reset h
    exact ⟨t, ht, by rw [State.initState_idle hreset.plan, hreset.mode], hreset.mode, hreset.busy⟩
  · have hinit : (i == .init) = false := beq_eq_false_iff_ne.mpr hi
    have ha := acceptRequest_accepted hb (i == .init) p
    exact ⟨_, exec_request he, State.initState_other (ha.initRun.trans hinit) (by rw [ha.plan]; exact hp)⟩

end Sys2Proof.Machine
end

section
/-! SUPPORT. The acceptance of the requests other than INIT (40_bus_primitives.md R110): the plan is the request's, and in
mode UNINIT the order violation is recorded. -/

namespace Sys2Proof.Machine

/-- Before INIT a request other than INIT is out of order (REQ_BEFORE_INIT, code 2); in any other mode it is in order. -/
theorem acceptViolation_code_other (m : Mode) :
    (acceptViolation false m).map Violation.code = if m = .uninit then some 2 else none := by
  cases m <;> rfl

/-- A request other than INIT is accepted on an idle block with the plan `Expand` gives it (R110). -/
theorem exec_request_accepted {s : State} {i : Instr} {p : Plan} (he : expand s.cfg i = some p) (hi : i ≠ .init)
    (hb : s.busy = false) :
    ∃ t, exec i s = .next t ∧ Accepted s false (if s.mode = .uninit then some 2 else none) p t := by
  have hinit : (i == .init) = false := beq_eq_false_iff_ne.mpr hi
  have hexec := exec_request he
  rw [hinit] at hexec
  exact ⟨_, hexec, acceptViolation_code_other s.mode ▸ acceptRequest_accepted hb false p⟩

end Sys2Proof.Machine
end

section
/-! SUPPORT. The statements on the writes (42_write.md), settled. -/

namespace Sys2Proof.Machine

/-- Settles O25: both are requests other than INIT, and the plan of each is its byte with RS = 0 or RS = 1. -/
theorem writesAreAccepted : Obligations.WritesAreAccepted := by
  unfold Obligations.WritesAreAccepted
  exact fun b s hb => ⟨exec_request_accepted (i := .writeCmd b) rfl nofun hb,
    exec_request_accepted (i := .writeChar b) rfl nofun hb⟩

/-- Settles O31, by the induction on the list of bytes that `expandString_eq_map` is. -/
theorem stringExpansion : Obligations.StringExpansion := by
  unfold Obligations.StringExpansion
  exact expandString_eq_map

end Sys2Proof.Machine
end

section
/-! SUPPORT. The plans of the display operations (43_display_ops.md) in numbers: a command byte is its row's base plus the
operand, modulo 256 (30_encoding.md R83). -/

namespace Sys2Proof.Machine

/-- `ddram_cmd` is the sum of its two numbers, modulo 256 (R83). -/
theorem ddramCmd_eq_ofNat (base v : Byte) : ddramCmd base v = BitVec.ofNat 8 ((base.toNat + v.toNat) % 256) := by
  have hsum : (ddramCmd base v).toNat = (base.toNat + v.toNat) % 256 := ddramCommandByte.1 base v
  rw [← hsum, BitVec.ofNat_toNat, BitVec.setWidth_eq]

/-- GOTO_ADDR sends 0x80 + address (R163). -/
theorem gotoAddrPlan_eq_ofNat (c : Config.Params) (address : Byte) :
    gotoAddrPlan c address = bytePlan c false (BitVec.ofNat 8 ((128 + address.toNat) % 256)) :=
  congrArg (bytePlan c false) (ddramCmd_eq_ofNat ddramRow0 address)

/-- In row 0 SET_CURSOR is GOTO_ADDR (R163). -/
theorem setCursorPlan_row_zero (c : Config.Params) (column : Byte) :
    setCursorPlan c column 0 = gotoAddrPlan c column := if_pos rfl

/-- SET_CURSOR sends 0x80 + column in row 0, 0xC0 + column in row 1, and nothing in any other row (R162). -/
theorem setCursorPlan_eq_ofNat (c : Config.Params) (column row : Byte) :
    setCursorPlan c column row =
      if row.toNat = 0 then bytePlan c false (BitVec.ofNat 8 ((128 + column.toNat) % 256))
      else if row.toNat = 1 then bytePlan c false (BitVec.ofNat 8 ((192 + column.toNat) % 256)) else [] := by
  have hzero : row = 0 ↔ row.toNat = 0 := BitVec.toNat_inj.symm
  have hone : row = 1 ↔ row.toNat = 1 := BitVec.toNat_inj.symm
  simp only [setCursorPlan, hzero, hone, ddramCmd_eq_ofNat]
  rfl

end Sys2Proof.Machine
end

section
/-! SUPPORT. The statements on the display operations (43_display_ops.md), settled. -/

namespace Sys2Proof.Machine

/-- Settles O26: both are requests other than INIT, with the plan of 0x01 or of 0x02 and the extra settle. -/
theorem clearAndHomeAreAccepted : Obligations.ClearAndHomeAreAccepted := by
  unfold Obligations.ClearAndHomeAreAccepted
  exact fun s hb => ⟨exec_request_accepted (i := .clear) rfl nofun hb, exec_request_accepted (i := .home) rfl nofun hb⟩

/-- Settles O27: SET_CURSOR is a request other than INIT, and its plan is read off its row and column as numbers. -/
theorem setCursorIsAccepted : Obligations.SetCursorIsAccepted := by
  unfold Obligations.SetCursorIsAccepted
  intro c r s hb
  rw [← setCursorPlan_eq_ofNat]
  exact exec_request_accepted rfl nofun hb

/-- Settles O28: GOTO_ADDR is a request other than INIT, and its plan is that of SET_CURSOR in row 0. -/
theorem gotoAddrIsAccepted : Obligations.GotoAddrIsAccepted := by
  unfold Obligations.GotoAddrIsAccepted
  refine fun a s => ⟨fun hb => ?_, congrArg some (setCursorPlan_row_zero s.cfg a).symm⟩
  rw [← gotoAddrPlan_eq_ofNat]
  exact exec_request_accepted rfl nofun hb

end Sys2Proof.Machine
end

section
/-! SUPPORT. The address arithmetic of the reference peer (45_reference_peer.md R196): the valid addresses, the address
step in numbers, and its wraps. -/

namespace Sys2Proof.Machine

variable {a : BitVec 7}

theorem validAddress_two_lines : validAddress true a = true ↔ a.toNat ≤ 0x27 ∨ (0x40 ≤ a.toNat ∧ a.toNat ≤ 0x67) := by
  simp [validAddress]

theorem validAddress_one_line : validAddress false a = true ↔ a.toNat ≤ 0x4F := by
  simp [validAddress]

/-- The valid addresses for either number of lines. -/
theorem validAddress_iff {lines2 : Bool} : validAddress lines2 a = true ↔
    if lines2 then a.toNat ≤ 0x27 ∨ (0x40 ≤ a.toNat ∧ a.toNat ≤ 0x67) else a.toNat ≤ 0x4F := by
  cases lines2
  · exact validAddress_one_line
  · exact validAddress_two_lines

theorem stepAddress_two_up : (stepAddress true true a).toNat =
    if a.toNat = 0x27 then 0x40 else if a.toNat = 0x67 then 0x00 else (a.toNat + 1) % 128 := by
  simp only [stepAddress, ← BitVec.toNat_inj]
  split_ifs <;> simp_all [BitVec.toNat_add]

theorem stepAddress_two_down : (stepAddress true false a).toNat =
    if a.toNat = 0x40 then 0x27 else if a.toNat = 0x00 then 0x67 else (a.toNat + 127) % 128 := by
  simp only [stepAddress, ← BitVec.toNat_inj]
  split_ifs <;> simp_all [BitVec.toNat_sub]
  all_goals omega

theorem stepAddress_one_up : (stepAddress false true a).toNat =
    if a.toNat = 0x4F then 0x00 else (a.toNat + 1) % 128 := by
  simp only [stepAddress, ← BitVec.toNat_inj]
  split_ifs <;> simp_all [BitVec.toNat_add]

theorem stepAddress_one_down : (stepAddress false false a).toNat =
    if a.toNat = 0x00 then 0x4F else (a.toNat + 127) % 128 := by
  simp only [stepAddress, ← BitVec.toNat_inj]
  split_ifs <;> simp_all [BitVec.toNat_sub]
  all_goals omega

/-- From a valid address the step stays valid, and the step the other way leads back. -/
theorem stepAddress_valid {lines2 : Bool} (inc : Bool) (h : validAddress lines2 a = true) :
    validAddress lines2 (stepAddress lines2 inc a) = true ∧
      stepAddress lines2 (!inc) (stepAddress lines2 inc a) = a := by
  have := a.isLt
  rw [validAddress_iff] at h ⊢
  rw [← BitVec.toNat_inj]
  cases lines2 <;> cases inc
  case true.true =>
    rw [Bool.not_true, stepAddress_two_down, stepAddress_two_up]
    grind
  case true.false =>
    rw [Bool.not_false, stepAddress_two_up, stepAddress_two_down]
    grind
  case false.true =>
    rw [Bool.not_true, stepAddress_one_down, stepAddress_one_up]
    grind
  case false.false =>
    rw [Bool.not_false, stepAddress_one_up, stepAddress_one_down]
    grind

end Sys2Proof.Machine
end

section
/-! SUPPORT. Executing a byte (45_reference_peer.md R186, R197): its time, what a free peer makes of it, and what a busy
one does. -/

namespace Sys2Proof.Machine

variable {s : State} {r : Bool} {b : Byte} {f : Peer → Peer}

/-! ### The execution time (R197) -/

/-- A command that takes 37 µs in either mode: neither clear display, return home nor function set. -/
def isShortCommand (b : Byte) : Bool := !(b == 0x01 || b == 0x02 || b == 0x03) && !isFunctionSet b

/-- A byte of data and any command that is no exception take 37 µs. -/
theorem Peer.execTime_short (p : Peer) (h : r = true ∨ isShortCommand b = true) : p.execTime r b = 37 := by
  unfold Peer.execTime
  rcases h with hr | hb
  · simp [hr]
  · obtain ⟨hlong, hset⟩ : (b == 0x01 || b == 0x02 || b == 0x03) = false ∧ isFunctionSet b = false := by
      simpa [isShortCommand] using hb
    rw [hlong, hset]
    simp

/-- Clear display and return home take 1520 µs. -/
theorem Peer.execTime_long (p : Peer) (h : (b == 0x01 || b == 0x02 || b == 0x03) = true) :
    p.execTime false b = 1520 := by
  rw [Peer.execTime, h]
  rfl

/-- A function set takes 4100 µs if it is the first one in 8-bit mode, and 37 µs otherwise. -/
theorem Peer.execTime_functionSet (p : Peer) (l n f : Bool) (x : BitVec 2) :
    p.execTime false (lcdByte (.lcdFunctionSet l n f x)) =
      if p.ifmode = .eight ∧ p.fsSeen = false then 4100 else 37 := by
  have hlong : ∀ l n f x, (lcdByte (.lcdFunctionSet l n f x) == 0x01 || lcdByte (.lcdFunctionSet l n f x) == 0x02 ||
      lcdByte (.lcdFunctionSet l n f x) == 0x03) = false := by decide
  have hset : ∀ l n f x, isFunctionSet (lcdByte (.lcdFunctionSet l n f x)) = true := by decide
  rw [Peer.execTime, hlong, hset]
  simp

/-! ### A transfer of a free peer and of a busy one (R186) -/

/-- A free peer executes the byte: it has the effect and is busy for the byte's time, and no free value is drawn. -/
theorem State.PeerFree.transfer (h : s.PeerFree) (hf : (f s.peer).fault = none) {d : Nat}
    (hd : s.peer.execTime r b = d) :
    s.transfer r b f = .next (s.setPeer { f s.peer with busyUntil := s.peerTime + d }) := by
  rw [State.transfer_next, Peer.execute_on_time h.onTime, hd, State.drift_of_no_fault]
  exact hf

/-- A free peer that refuses the byte has the fault it raises. -/
theorem State.PeerFree.transfer_raise (h : s.PeerFree) {g : PeerFault} (hf : f s.peer = s.peer.raise g) :
    ∃ t, s.transfer r b f = .next t ∧ t.peer.fault = some g ∧ SameBlock s t := by
  obtain ⟨t, ht, hblock⟩ := s.transfer_frame r b f
  refine ⟨t, ht, ?_, hblock⟩
  rw [State.transfer_next, Peer.execute_on_time h.onTime, hf, Peer.raise_none h.fault] at ht
  cases ht
  exact State.drift_fault _

/-- A peer that is still busy, with the timing check on, has the fault OVERRUN after any byte. -/
theorem State.transfer_busy (ht : s.cfg.peerTiming = true) (hb : s.peerTime < s.peer.busyUntil)
    (hf : s.peer.fault = none) : ∃ t, s.transfer r b f = .next t ∧ t.peer.fault = some .overrun ∧ SameBlock s t := by
  obtain ⟨t, htr, hblock⟩ := s.transfer_frame r b f
  refine ⟨t, htr, ?_, hblock⟩
  obtain ⟨-, -, he⟩ | ⟨hfree, -⟩ := s.peer.execute_cases s.cfg.peerTiming s.peerTime r b f
  · rw [State.transfer_next] at htr
    cases htr
    rw [State.drift_fault, State.setPeer_peer, he, Peer.raise_none hf]
  · rcases hfree with hoff | hle
    · rw [hoff] at ht; cases ht
    · omega

/-! ### The bytes of the transfers (R81) -/

theorem lcdByte_lcdShift (sc r : Bool) (x : BitVec 2) :
    lcdByte (.lcdShift sc r x) = BitVec.ofNat 8 (16 + 8 * sc.toNat + 4 * r.toNat + x.toNat) := by
  revert sc r x
  decide

theorem lcdByte_lcdSetCgram (a : BitVec 6) : lcdByte (.lcdSetCgram a) = BitVec.ofNat 8 (64 + a.toNat) := by
  refine BitVec.eq_of_toNat_eq ?_
  rw [lcdByte, encode, encodedByte, BitVec.extractLsb'_toNat, toNat_append_add, BitVec.toNat_ofNat]
  rfl

theorem lcdByte_lcdSetDdram_short (a : BitVec 7) : isShortCommand (lcdByte (.lcdSetDdram a)) = true := by
  revert a
  decide

/-! ### What a free peer makes of each transfer -/

/-- Set DDRAM address moves the cursor to a valid address (R193). -/
theorem Peer.setDdram_valid {p : Peer} {a : BitVec 7} (h : validAddress p.lines2 a = true) :
    p.setDdram a = { p with ac := a } := if_pos h

/-- Set DDRAM address refuses any other address (R193). -/
theorem Peer.setDdram_invalid {p : Peer} {a : BitVec 7} (h : ¬ validAddress p.lines2 a = true) :
    p.setDdram a = p.raise .badAddress := if_neg h

/-- Write data stores at a valid cursor and steps it (R195). -/
theorem Peer.writeData_valid {p : Peer} (hs : p.sh = false) (h : validAddress p.lines2 p.ac = true) (b : Byte) :
    p.writeData b =
      { p with ddram := Memory.write p.ddram p.ac.toNat b, ac := stepAddress p.lines2 p.id p.ac } := by
  rw [Peer.writeData, if_neg (by simp [hs]), if_neg (by simp [h])]

/-- Write data is refused with display shift on (R195). -/
theorem Peer.writeData_shift {p : Peer} (hs : p.sh = true) (b : Byte) :
    p.writeData b = p.raise (.unmodelled b) := if_pos hs

/-- Write data is refused at an invalid cursor (R195). -/
theorem Peer.writeData_invalid {p : Peer} (hs : p.sh = false) (h : validAddress p.lines2 p.ac = false) (b : Byte) :
    p.writeData b = p.raise .badAddress := by
  rw [Peer.writeData, if_neg (by simp [hs]), if_pos (by simp [h])]

/-- A free peer writes a byte at a valid cursor (R195). -/
theorem State.PeerFree.exec_writeData (h : s.PeerFree) (hs : s.peer.sh = false)
    (ha : validAddress s.peer.lines2 s.peer.ac = true) (d : Byte) :
    exec (.lcdWriteData d) s = .next (s.setPeer { s.peer with
      ddram := Memory.write s.peer.ddram s.peer.ac.toNat d
      ac := stepAddress s.peer.lines2 s.peer.id s.peer.ac, busyUntil := s.peerTime + 37 }) := by
  have hw := Peer.writeData_valid hs ha d
  show s.transfer true (lcdByte (.lcdWriteData d)) (fun p => p.writeData d) = _
  rw [h.transfer (by rw [hw]; exact h.fault) (Peer.execTime_short _ (.inl rfl)), hw]

/-- A cell of a two-line display shows the byte at its address (R194). -/
theorem visibleCell_eq_read {row column : Nat} (hl : s.peer.lines2 = true) (hr : row < 2) (hc : column < s.cfg.cols) :
    s.visibleCell row column = some (Memory.read s.peer.ddram (rowBase row + column)) := by
  simp [State.visibleCell, hl, Config.rows, hr, hc]

end Sys2Proof.Machine
end

section
/-! SUPPORT. The statements on what the reference peer makes of a byte (45_reference_peer.md section 3), settled. -/

namespace Sys2Proof.Machine

/-- Settles O54: each step's wraps as numbers, and that they undo each other from a valid address. -/
theorem addressStep : Obligations.AddressStep := by
  unfold Obligations.AddressStep
  exact ⟨fun _ => validAddress_two_lines, fun _ => validAddress_one_line, fun _ => stepAddress_two_up,
    fun _ => stepAddress_two_down, fun _ => stepAddress_one_up, fun _ => stepAddress_one_down,
    fun _ inc _ => stepAddress_valid inc⟩

/-- Settles O47: the cleared memory lists no cell. -/
theorem clearDisplayResult : Obligations.ClearDisplayResult := by
  unfold Obligations.ClearDisplayResult
  exact fun s h => ⟨[], Memory.read_nil, h.transfer h.fault (Peer.execTime_long _ (by decide))⟩

/-- Settles O48: both bytes take 1520 µs. -/
theorem returnHomeResult : Obligations.ReturnHomeResult := by
  unfold Obligations.ReturnHomeResult
  exact fun x s h => h.transfer h.fault (Peer.execTime_long _ (by revert x; decide))

/-- Settles O49: every byte of the two groups takes 37 µs. -/
theorem entryModeAndDisplayControl : Obligations.EntryModeAndDisplayControl := by
  unfold Obligations.EntryModeAndDisplayControl
  refine ⟨fun i sh s h => h.transfer h.fault (Peer.execTime_short _ (.inr ?_)),
    fun d c b s h => h.transfer h.fault (Peer.execTime_short _ (.inr ?_))⟩
  · revert i sh; decide
  · revert d c b; decide

/-- Settles O50: the time is that of the mode the peer is in before the byte. -/
theorem functionSetResult : Obligations.FunctionSetResult := by
  unfold Obligations.FunctionSetResult
  exact fun l n f x s h => h.transfer h.fault (s.peer.execTime_functionSet l n f x)

/-- Settles O51, by the two cases of a valid address and any other. -/
theorem setDdramResult : Obligations.SetDdramResult := by
  unfold Obligations.SetDdramResult
  intro a s h
  rw [← validAddress_iff]
  refine ⟨fun ha => ?_, fun ha => ?_⟩
  · have hset := Peer.setDdram_valid ha
    show s.transfer false (lcdByte (.lcdSetDdram a)) (fun p => p.setDdram a) = _
    rw [h.transfer (by rw [hset]; exact h.fault) (Peer.execTime_short _ (.inr (lcdByte_lcdSetDdram_short a))), hset]
  · obtain ⟨t, ht, hf, -⟩ := h.transfer_raise (r := false) (b := lcdByte (.lcdSetDdram a)) (f := fun p => p.setDdram a)
      (Peer.setDdram_invalid ha)
    exact ⟨t, ht, hf⟩

/-- Settles O52, by R195's three cases; what the stored byte leaves of DDRAM is the law of a write to memory. -/
theorem writeDataResult : Obligations.WriteDataResult := by
  unfold Obligations.WriteDataResult
  refine fun d s h => ⟨fun hs ha hm => ?_, fun hs => ?_, fun hs ha => ?_⟩
  · have hcell : s.peer.ac.toNat < Memory.size := s.peer.ac.isLt
    exact ⟨_, Memory.wf_write hm hcell d, Memory.read_write_self hm _ d,
      fun a hne => Memory.read_write_other _ hne d, h.exec_writeData hs ha d⟩
  · obtain ⟨t, ht, hf, -⟩ := h.transfer_raise (r := true) (b := lcdByte (.lcdWriteData d)) (f := fun p => p.writeData d)
      (Peer.writeData_shift hs d)
    exact ⟨t, ht, hf⟩
  · obtain ⟨t, ht, hf, -⟩ := h.transfer_raise (r := true) (b := lcdByte (.lcdWriteData d)) (f := fun p => p.writeData d)
      (Peer.writeData_invalid hs ha d)
    exact ⟨t, ht, hf⟩

/-- Settles O53: the fault holds the byte sent. -/
theorem refusedBytesResult : Obligations.RefusedBytesResult := by
  unfold Obligations.RefusedBytesResult
  refine fun s h => ⟨h.transfer_raise rfl, fun sc r x => ?_, fun a => ?_⟩
  · rw [← lcdByte_lcdShift]
    exact h.transfer_raise rfl
  · rw [← lcdByte_lcdSetCgram]
    exact h.transfer_raise rfl

/-- Settles O58: the cell's address is a valid cursor, and no other cell has the same address. -/
theorem writtenCharacterShows : Obligations.WrittenCharacterShows := by
  unfold Obligations.WrittenCharacterShows
  intro d row column s h hl hs hm hcols hrow hcol hac
  have hvalid : validAddress s.peer.lines2 s.peer.ac = true := by
    rw [hl, validAddress_two_lines, hac]
    split <;> omega
  have hac : s.peer.ac.toNat = rowBase row + column := hac
  obtain ⟨t, ht, htl, hcfg, hddram⟩ : ∃ t, exec (.lcdWriteData d) s = .next t ∧ t.peer.lines2 = true ∧
      t.cfg = s.cfg ∧ t.peer.ddram = Memory.write s.peer.ddram s.peer.ac.toNat d :=
    ⟨_, h.exec_writeData hs hvalid d, hl, rfl, rfl⟩
  refine ⟨t, ht, ?_, fun r c hr hc hne => ?_⟩
  · rw [visibleCell_eq_read htl hrow (by rwa [hcfg]), hddram, ← hac, Memory.read_write_self hm]
  · have hother : rowBase r + c ≠ s.peer.ac.toNat := by
      rw [hac]
      unfold rowBase
      split <;> split <;> omega
    rw [visibleCell_eq_read htl hr (by rwa [hcfg]), visibleCell_eq_read hl hr hc, hddram,
      Memory.read_write_other _ hother]

end Sys2Proof.Machine
end

section
/-! SUPPORT. Latching (45_reference_peer.md R182 to R185, R197): the block's step on whose edge the peer latches, case by
case. -/

namespace Sys2Proof.Machine

variable {s : State} {v : Bool} {rest : Plan}

/-- The state in which the peer makes of the event `E v` what it does: the action is done and the peer has seen the level,
before any latch and before the step's time. -/
def State.atEdge (s : State) (v : Bool) (rest : Plan) : State :=
  ((s.setSchedule s.turnTaken).performed (.setE v) rest).setPeer { s.peer with lastE := v }

/-- An event the peer latches on is a latch in that state (R182). -/
theorem peerSees_eq_latch_atEdge (he : latchesOn s.cfg.latchEdge s.peer.lastE v = true) :
    ((s.setSchedule s.turnTaken).performed (.setE v) rest).peerSees v s.data s.rs =
      (s.atEdge v rest).latch s.data s.rs :=
  State.peerSees_latch (s := (s.setSchedule s.turnTaken).performed (.setE v) rest) he s.data s.rs

/-- The block's step on a latch that completes no byte ends with the peer the latch left, or with the fault it set. -/
theorem step_latch_none {u : State} (hm : s.blockMoves = true) (hp : s.plan = .setE v :: rest)
    (he : latchesOn s.cfg.latchEdge s.peer.lastE v = true) (hu : (s.atEdge v rest).latch s.data s.rs = (u, none)) :
    ∃ t, step s = .next t ∧ t.peer.fault = u.peer.fault ∧ (u.peer.fault = none → t.peer = u.peer) := by
  refine ⟨_, step_setE_none hm hp ((peerSees_eq_latch_atEdge he).trans hu), State.drift_fault _, fun hf => ?_⟩
  rw [State.drift_of_no_fault]
  exacts [rfl, hf]

/-- Raising a fault on a peer that has none sets it. -/
theorem State.raisePeer_fault {u : State} (hf : u.peer.fault = none) (f : PeerFault) :
    (u.raisePeer f).peer.fault = some f :=
  congrArg Peer.fault (Peer.raise_none hf f)

/-- A latch that comes too early, where the timing check is on, sets OVERRUN (R197). -/
theorem step_latch_early (hm : s.blockMoves = true) (hp : s.plan = .setE v :: rest)
    (he : latchesOn s.cfg.latchEdge s.peer.lastE v = true) (ht : s.cfg.peerTiming = true)
    (hearly : s.peerTime < latchEarliest) (hf : s.peer.fault = none) :
    ∃ t, step s = .next t ∧ t.peer.fault = some .overrun := by
  have hlatch := State.latch_early (s := s.atEdge v rest) ht hearly s.data s.rs
  obtain ⟨t, hstep, hfault, -⟩ := step_latch_none hm hp he hlatch
  exact ⟨t, hstep, hfault.trans (State.raisePeer_fault (u := s.atEdge v rest) hf .overrun)⟩

/-- The edge a peer in 8-bit mode latches on runs the byte of the nibble and a free low nibble (R183). -/
theorem step_latch_eight (h : s.LatchesNext v rest) (hi : s.peer.ifmode = .eight) :
    step s = afterTransfer (exec (decodeTransfer s.rs (s.data ++ freeNibble s.draws))
      { s.headTaken rest with
        e := v, trace := s.trace ++ [(s.now, .e v)]
        draws := s.draws + 1
        peer := { s.peer with lastE := v } }) := by
  have hlatch := State.latch_eight (s := s.atEdge v rest) h.onTime hi s.data s.rs
  exact step_setE_some h.moves h.plan ((peerSees_eq_latch_atEdge h.edge).trans hlatch)

/-- The edge that latches a high nibble keeps it and its RS (R184). -/
theorem step_latch_hi (h : s.LatchesNext v rest) (hi : s.peer.ifmode = .four) (hp : s.peer.phase = .hi) :
    ∃ t, step s = .next t ∧ t.peer = { s.peer with lastE := v, hiNib := s.data, hiRS := s.rs, phase := .lo } := by
  have hlatch := State.latch_hi (s := s.atEdge v rest) h.onTime hi hp s.data s.rs
  obtain ⟨t, ht, -, hpeer⟩ := step_latch_none h.moves h.plan h.edge hlatch
  exact ⟨t, ht, hpeer h.fault⟩

/-- The edge that latches a low nibble under another RS than its high nibble's is a fault (R185). -/
theorem step_latch_rsChanged (h : s.LatchesNext v rest) (hi : s.peer.ifmode = .four) (hp : s.peer.phase = .lo)
    (hr : s.rs ≠ s.peer.hiRS) : ∃ t, step s = .next t ∧ t.peer.fault = some .rsChanged := by
  have hlatch := State.latch_rsChanged (s := s.atEdge v rest) h.onTime hi hp s.data (Ne.symm hr)
  obtain ⟨t, ht, hfault, -⟩ := step_latch_none h.moves h.plan h.edge hlatch
  exact ⟨t, ht, hfault.trans (State.raisePeer_fault (u := s.atEdge v rest) h.fault .rsChanged)⟩

end Sys2Proof.Machine
end

section
/-! SUPPORT. The peer's fault is sticky (45_reference_peer.md R180). -/

namespace Sys2Proof.Machine

variable {s t : State} {f : PeerFault}

/-- Every step but a power cycle keeps the peer's fault. -/
theorem step_fault_sticky (h : step s = .next t) (hf : s.peer.fault = some f)
    (hq : ∀ rest, s.schedule ≠ .powerCycle :: rest) : t.peer.fault = some f := by
  cases step_cases h with
  | block hm s' hs a rest hp hb => obtain rfl | rfl := hs <;> exact hb.sticky f hf
  | idle s' hs ht => obtain rfl | rfl := hs <;> simpa [ht] using hf
  | request i p hb hp ht =>
    rw [ht, State.acceptRequest_idle (s := s.popTurn) hb]
    simpa using hf
  | reserved hb ht =>
    rw [ht, State.acceptReserved_idle (s := s.popTurn) hb]
    simpa using hf
  | read o ht => simpa [ht] using hf
  | pass s' hs ht => obtain rfl | rfl := hs <;> simpa [ht] using hf
  | reset rest hq' hr => exact hr.sticky f hf
  | powerCycle rest hq' ht => exact absurd hq' (hq rest)

/-- Every instruction answers a next state and keeps the peer's fault. -/
theorem exec_fault_sticky (i : Instr) (hf : s.peer.fault = some f) :
    ∃ t, exec i s = .next t ∧ t.peer.fault = some f := by
  cases he : expand s.cfg i with
  | none =>
    obtain ⟨t, ht, -, hp⟩ := exec_transfer_step he
    exact ⟨t, ht, hp.sticky f hf⟩
  | some p =>
    refine ⟨_, exec_request he, ?_⟩
    rw [State.drift_fault]
    cases hb : s.busy with
    | true => rwa [State.acceptRequest_busy hb]
    | false => simpa [State.acceptRequest_idle hb] using hf

end Sys2Proof.Machine
end

section
/-! SUPPORT. The statements on latching, the timing check, the fault and power-on (45_reference_peer.md sections 1, 2 and
4), settled. -/

namespace Sys2Proof.Machine

/-- Settles O45: in 8-bit mode every latch completes a byte. -/
theorem eightBitLatch : Obligations.EightBitLatch := by
  unfold Obligations.EightBitLatch
  exact fun s v rest => step_latch_eight

/-- Settles O46, by the phase and, for a low nibble, by whether RS is the high nibble's. -/
theorem fourBitLatch : Obligations.FourBitLatch := by
  unfold Obligations.FourBitLatch
  exact fun s v rest h hi => ⟨step_latch_hi h hi, step_latch_rsChanged h hi,
    fun hlo hr => ⟨_, step_latch_lo h.moves h.plan h.edge h.onTime hi hlo hr.symm, rfl, rfl, rfl⟩⟩

/-- Settles O55: `Execute` refuses a byte while the peer is busy, and a latch checks the time before all else. -/
theorem overrunCheck : Obligations.OverrunCheck := by
  unfold Obligations.OverrunCheck
  refine ⟨fun i s hi ht hbusy hf => ?_, fun s v rest hm hp he ht => step_latch_early hm hp he ht⟩
  obtain ⟨r, f, hexec⟩ := exec_transfer hi
  rw [hexec]
  exact State.transfer_busy ht hbusy hf

/-- Settles O56: the fault is kept, and what ends with a fault has been drawn anew. -/
theorem peerFaultIsSticky : Obligations.PeerFaultIsSticky := by
  unfold Obligations.PeerFaultIsSticky
  refine ⟨fun s t f h hf hq => step_drawn h f (step_fault_sticky h hf hq), fun s t f h => step_drawn h f,
    fun i s f hf => ?_⟩
  obtain ⟨t, ht, htf⟩ := exec_fault_sticky i hf
  obtain ⟨n, hn⟩ := exec_drawn ht f htf
  exact ⟨t, n, ht, hn⟩

/-- Settles O42: the block's items are the reset's, and the peer's the power-on state its parameter chooses. -/
theorem powerCycle : Obligations.PowerCycle := by
  unfold Obligations.PowerCycle
  intro s rest hq
  have hstep : step s = .next (s.setSchedule rest).powerCycle := by
    unfold step State.move
    rw [hq, ← State.popTurn_eq hq]
    rfl
  have hbusy : (Peer.powerOn s.cfg s.draws).busyUntil = 0 := by
    unfold Peer.powerOn
    split <;> rfl
  refine ⟨_, hstep, rfl, rfl, rfl, rfl, rfl, rfl, rfl, rfl, rfl, rfl, rfl, rfl, rfl, rfl, Peer.powerOn_lastE _ _,
    State.powerCycle_fault _, hbusy, fun hcfg => ?_⟩
  have hpeer : (s.setSchedule rest).powerCycle.peer = Peer.reset8 := by
    show Peer.powerOn s.cfg s.draws = _
    rw [Peer.powerOn, hcfg]
  rw [hpeer]
  exact ⟨rfl, rfl, rfl, rfl, rfl, rfl, rfl, rfl, rfl, rfl, fun _ => rfl⟩

end Sys2Proof.Machine
end

section
/-! SUPPORT. What a run of a plan makes of the peer (45_reference_peer.md R182 to R186): no more than the latches it shows
the peer, one after the other, up to the first fault. -/

namespace Sys2Proof.Machine

variable {timing : Bool} {s t : State} {p q w : Peer} {r : Bool} {n : Nibble} {l : List (Bool × Nibble)}

/-- Executing the transfer `i` in some state of the machine makes `q` of the peer `p`. -/
def Executes (timing : Bool) (i : Instr) (p q : Peer) : Prop :=
  ∃ u w : State, u.peer = p ∧ u.cfg.peerTiming = timing ∧ exec i u = .next w ∧ w.peer = q

/-- Latching the nibble `n` under `r` makes `q` of a peer `p` without a fault (R183 to R185, R197). Which level of E it has
then seen is left open. -/
inductive Latches (timing : Bool) (r : Bool) (n : Nibble) (p : Peer) : Peer → Prop
  | eight (k : Nibble) (e : Bool) {q : Peer} (hi : p.ifmode = .eight)
      (h : Executes timing (decodeTransfer r (n ++ k)) { p with lastE := e } q) : Latches timing r n p q
  | hi (e : Bool) (hi : p.ifmode = .four) (hp : p.phase = .hi) :
      Latches timing r n p { p with lastE := e, hiNib := n, hiRS := r, phase := .lo }
  | lo (e : Bool) {q : Peer} (hi : p.ifmode = .four) (hp : p.phase = .lo) (hr : r = p.hiRS)
      (h : Executes timing (decodeTransfer r (p.hiNib ++ n)) { p with lastE := e, phase := .hi } q) :
      Latches timing r n p q
  | rsChanged {q : Peer} (hi : p.ifmode = .four) (hp : p.phase = .lo) (hr : r ≠ p.hiRS) (h : q.fault ≠ none) :
      Latches timing r n p q
  | early {q : Peer} (ht : timing = true) (h : q.fault ≠ none) : Latches timing r n p q

/-- The latches of a list, in order, make `w` of the peer `p`, or one of them sets a fault, which stays. -/
inductive LatchesAll (timing : Bool) : List (Bool × Nibble) → Peer → Peer → Prop
  | nil (p : Peer) (e : Bool) : LatchesAll timing [] p { p with lastE := e }
  | cons {r : Bool} {n : Nibble} {l : List (Bool × Nibble)} {p q w : Peer} (hf : p.fault = none)
      (hx : Latches timing r n p q) (hl : LatchesAll timing l q w) : LatchesAll timing ((r, n) :: l) p w
  | faulted {l : List (Bool × Nibble)} {p w : Peer} (hp : p.fault ≠ none) (hw : w.fault ≠ none) :
      LatchesAll timing l p w

theorem LatchesAll.fault_stays (h : LatchesAll timing l p w) (hp : p.fault ≠ none) : w.fault ≠ none := by
  cases h with
  | nil _ e => exact hp
  | cons hf => exact absurd hf hp
  | faulted _ hw => exact hw

/-- A latch starts from any level of E the peer may have seen. -/
theorem Latches.of_lastE {e : Bool} (h : Latches timing r n { p with lastE := e } q) : Latches timing r n p q := by
  cases h with
  | eight k e' hi h => exact .eight k e' hi h
  | hi e' hi hp => exact .hi e' hi hp
  | lo e' hi hp hr h => exact .lo e' hi hp hr h
  | rsChanged hi hp hr h => exact .rsChanged hi hp hr h
  | early ht h => exact .early ht h

theorem LatchesAll.of_lastE {e : Bool} (h : LatchesAll timing l { p with lastE := e } w) : LatchesAll timing l p w := by
  generalize hp : { p with lastE := e } = p' at h
  cases h with
  | nil _ e' => subst hp; exact .nil p e'
  | cons hf hx hl => subst hp; exact .cons hf hx.of_lastE hl
  | faulted hf hw => subst hp; exact .faulted hf hw

/-- What is not too early for the timing check is on time. -/
theorem onTime_of_not_early {now earliest : Nat} (h : ¬ (timing = true ∧ now < earliest)) :
    timing = false ∨ earliest ≤ now := by
  cases timing with
  | false => exact .inl rfl
  | true => exact .inr (Nat.le_of_not_lt fun hlt => h ⟨rfl, hlt⟩)

/-- The block's step on whose edge the peer latches is such a latch. -/
theorem step_latches {v : Bool} {rest : Plan} (hm : s.blockMoves = true) (hp : s.plan = .setE v :: rest)
    (he : latchesOn s.cfg.latchEdge s.peer.lastE v = true) (hf : s.peer.fault = none) (ht : step s = .next t) :
    Latches s.cfg.peerTiming s.rs s.data s.peer t.peer := by
  have hexec {i : Instr} {u : State} (hstep : step s = afterTransfer (exec i u)) (hcfg : u.cfg = s.cfg) :
      Executes s.cfg.peerTiming i u.peer t.peer := by
    rw [hstep] at ht
    cases hw : exec i u with
    | next w => rw [hw] at ht; cases ht; exact ⟨u, w, rfl, by rw [hcfg], hw, rfl⟩
    | fault r => rw [hw] at ht; cases ht
    | refused r => rw [hw] at ht; cases ht
  by_cases hearly : s.cfg.peerTiming = true ∧ s.peerTime < latchEarliest
  · obtain ⟨u, hu, hfault⟩ := step_latch_early hm hp he hearly.1 hearly.2 hf
    cases ht.symm.trans hu
    exact .early hearly.1 (by rw [hfault]; nofun)
  have hon : s.cfg.peerTiming = false ∨ latchEarliest ≤ s.peerTime := onTime_of_not_early hearly
  have h : s.LatchesNext v rest := ⟨hm, hp, he, hon, hf⟩
  cases hi : s.peer.ifmode with
  | eight => exact .eight _ v hi (hexec (step_latch_eight h hi) rfl)
  | four =>
    cases hph : s.peer.phase with
    | hi =>
      obtain ⟨u, hu, hpeer⟩ := step_latch_hi h hi hph
      cases ht.symm.trans hu
      exact hpeer ▸ .hi v hi hph
    | lo =>
      by_cases hr : s.rs = s.peer.hiRS
      · exact .lo v hi hph hr (hexec (step_latch_lo hm hp he hon hi hph hr.symm) rfl)
      · obtain ⟨u, hu, hfault⟩ := step_latch_rsChanged h hi hph hr
        cases ht.symm.trans hu
        exact .rsChanged hi hph hr (by rw [hfault]; nofun)

/-- Of an action that drives no E the peer samples nothing. -/
theorem latched_cons_quiet {a : Action} (ha : ∀ v, a ≠ .setE v) (edge : Config.Edge) (d : Nibble) (r e : Bool)
    (rest : Plan) : Plan.latched edge d r e (a :: rest) = Plan.latched edge (a.onData d) (a.onRs r) (a.onE e) rest := by
  cases a with
  | setE v => exact absurd rfl (ha v)
  | setData n => rfl
  | setRs v => rfl
  | wait d => rfl
  | setMode m => rfl

/-- With nothing scheduled, the block's run of its plan makes of the peer what the plan's latches do. -/
theorem run_plan_latchesAll {plan : Plan} (hp : s.plan = plan) (hq : s.schedule = [])
    (hl : s.peer.fault = none → s.peer.lastE = s.e) (h : core.run plan.length s = .next t) :
    LatchesAll s.cfg.peerTiming (Plan.latched s.cfg.latchEdge s.data s.rs s.e plan) s.peer t.peer := by
  induction plan generalizing s with
  | nil =>
    cases h
    exact .nil t.peer t.peer.lastE
  | cons a rest ih =>
    have hm : s.blockMoves = true := by rw [State.blockMoves, hq]
    have hturn : s.turnTaken = s.schedule := by rw [State.turnTaken, hq]
    obtain ⟨u, hu, hb⟩ := step_block hm hp
    rw [hturn] at hb
    have hb : BlockStepped s a rest u := hb
    have hrun : core.run rest.length u = .next t := (core_run_succ hu rest.length).symm.trans h
    have hrest := ih hb.plan (hb.schedule.trans hq)
      (fun hf => by rw [hb.lastE hf, hl (no_fault_before hb.sticky hf), hb.e]) hrun
    rw [hb.cfg, hb.data, hb.rs, hb.e] at hrest
    cases hf : s.peer.fault with
    | some f =>
      have hs : s.peer.fault ≠ none := by rw [hf]; nofun
      have hufault : u.peer.fault ≠ none := by rw [hb.sticky f hf]; nofun
      exact .faulted hs (hrest.fault_stays hufault)
    | none =>
      by_cases ha : ∃ v, a = .setE v
      · obtain ⟨v, rfl⟩ := ha
        rw [Plan.latched, ← hl hf]
        split
        next he => exact .cons hf (step_latches hm hp he hf hu) hrest
        next he =>
          rw [step_setE_unlatched hm hp hf (Bool.eq_false_iff.mpr he) hu] at hrest
          exact hrest.of_lastE
      · have ha : ∀ v, a ≠ .setE v := fun v hv => ha ⟨v, hv⟩
        obtain ⟨u', hu', -, -, hpeer⟩ := step_block_quiet hm hp ha
        cases hu.symm.trans hu'
        rw [latched_cons_quiet ha, ← hpeer hf]
        exact hrest

end Sys2Proof.Machine
end

section
/-! SUPPORT. Bringing a peer from one condition to another by latches, unless it sets its fault where it may. -/

namespace Sys2Proof.Machine

variable {timing : Bool} {ok : Prop} {P Q R : Peer → Prop} {p q w : Peer} {r : Bool} {n : Nibble} {b : Byte}
  {i : Instr} {l : List (Bool × Nibble)}

/-- The peer has no fault and meets `P`, or it has set its fault, and `ok` allows that. -/
def Peer.Unless (ok : Prop) (P : Peer → Prop) (p : Peer) : Prop := (p.fault = none ∧ P p) ∨ (p.fault ≠ none ∧ ok)

theorem Peer.Unless.of_imp (hok : p.fault ≠ none → ok) (hP : p.fault = none → P p) : p.Unless ok P := by
  by_cases hf : p.fault = none
  · exact .inl ⟨hf, hP hf⟩
  · exact .inr ⟨hf, hok hf⟩

theorem Peer.Unless.mono (h : p.Unless ok P) (hPQ : P p → Q p) : p.Unless ok Q :=
  Or.imp_left (fun ⟨hf, hp⟩ => ⟨hf, hPQ hp⟩) h

/-- The latches `l` bring every peer that meets `P` to `Q`, unless it sets its fault. -/
def Brings (timing : Bool) (ok : Prop) (P : Peer → Prop) (l : List (Bool × Nibble)) (Q : Peer → Prop) : Prop :=
  ∀ p w, p.Unless ok P → LatchesAll timing l p w → w.Unless ok Q

theorem Brings.of_imp (hPQ : ∀ p, P p → Q p) (h : Brings timing ok Q l R) : Brings timing ok P l R :=
  fun p w hp => h p w (hp.mono (hPQ p))

theorem Brings.nil (hP : ∀ p e, p.fault = none → P p → Q { p with lastE := e }) : Brings timing ok P [] Q := by
  intro p w h hl
  obtain ⟨hf, hp⟩ | ⟨hf, hok⟩ := h
  · cases hl with
    | nil _ e => exact .inl ⟨hf, hP p e hf hp⟩
    | faulted hp' _ => exact absurd hf hp'
  · exact .inr ⟨hl.fault_stays hf, hok⟩

theorem Brings.cons (hx : ∀ p q, P p → p.fault = none → Latches timing r n p q → q.Unless ok Q)
    (hl : Brings timing ok Q l R) : Brings timing ok P ((r, n) :: l) R := by
  intro p w h hall
  obtain ⟨hf, hp⟩ | ⟨hf, hok⟩ := h
  · cases hall with
    | cons hf' hlatch hrest => exact hl _ w (hx p _ hp hf hlatch) hrest
    | faulted hp' _ => exact absurd hf hp'
  · exact .inr ⟨hall.fault_stays hf, hok⟩

/-- What a free peer makes of a transfer, any peer does, unless it is busy and the timing check is on (R186). -/
theorem Executes.unless (h : Executes timing i p q) (hi : ∀ c, expand c i = none) (hf : p.fault = none)
    (hok : timing = true → ok)
    (hQ : ∀ u w : State, u.PeerFree → u.peer = p → exec i u = .next w → w.peer.Unless ok Q) : q.Unless ok Q := by
  obtain ⟨u, w, rfl, rfl, hw, rfl⟩ := h
  by_cases hbusy : u.cfg.peerTiming = true ∧ u.peerTime < u.peer.busyUntil
  · obtain ⟨r, f, hexec⟩ := exec_transfer (hi u.cfg)
    obtain ⟨t, ht, hfault, -⟩ := State.transfer_busy (r := r) (b := lcdByte i) (f := f) hbusy.1 hbusy.2 hf
    cases hw.symm.trans (hexec.trans ht)
    exact .inr ⟨by rw [hfault]; nofun, hok hbusy.1⟩
  · exact hQ u w ⟨hf, onTime_of_not_early hbusy⟩ rfl hw

/-! ### One latch -/

/-- In 4-bit mode, with a high nibble to come. -/
def Peer.fourHi (p : Peer) : Prop := p.ifmode = .four ∧ p.phase = .hi

/-- In 4-bit mode, with the high nibble `n` latched under `r`. -/
structure Peer.Pending (r : Bool) (n : Nibble) (p : Peer) : Prop where
  mode : p.ifmode = .four
  phase : p.phase = .lo
  nibble : p.hiNib = n
  rs : p.hiRS = r

/-- A latch in 8-bit mode executes the byte of its nibble and a free one, or comes too early (R183, R197). -/
theorem Latches.of_eight (h : Latches timing r n p q) (hp : p.ifmode = .eight) :
    (∃ (k : Nibble) (e : Bool), Executes timing (decodeTransfer r (n ++ k)) { p with lastE := e } q) ∨
      (timing = true ∧ q.fault ≠ none) := by
  cases h with
  | eight k e hi h => exact .inl ⟨k, e, h⟩
  | hi e hi _ => rw [hp] at hi; cases hi
  | lo e hi _ hr h => rw [hp] at hi; cases hi
  | rsChanged hi _ hr h => rw [hp] at hi; cases hi
  | early ht h => exact .inr ⟨ht, h⟩

/-- A latch of a high nibble keeps it, or comes too early (R184, R197). -/
theorem Latches.of_fourHi (h : Latches timing r n p q) (hp : p.fourHi) :
    (∃ e, q = { p with lastE := e, hiNib := n, hiRS := r, phase := .lo }) ∨ (timing = true ∧ q.fault ≠ none) := by
  obtain ⟨hmode, hphase⟩ := hp
  cases h with
  | eight k e hi h => rw [hmode] at hi; cases hi
  | hi e hi hp => exact .inl ⟨e, rfl⟩
  | lo e hi hp hr h => rw [hphase] at hp; cases hp
  | rsChanged hi hp hr h => rw [hphase] at hp; cases hp
  | early ht h => exact .inr ⟨ht, h⟩

/-- A latch of a low nibble executes the byte, or comes too early, or is under another RS than the high nibble's (R184,
R185, R197). -/
theorem Latches.of_pending {r' : Bool} {m : Nibble} (h : Latches timing r n p q) (hp : p.Pending r' m) :
    (∃ e, Executes timing (decodeTransfer r (m ++ n)) { p with lastE := e, phase := .hi } q) ∨
      (timing = true ∧ q.fault ≠ none) ∨ (r ≠ r' ∧ q.fault ≠ none) := by
  obtain ⟨hmode, hphase, rfl, rfl⟩ := hp
  cases h with
  | eight k e hi h => rw [hmode] at hi; cases hi
  | hi e hi hp => rw [hphase] at hp; cases hp
  | lo e hi hp hr h => exact .inl ⟨e, h⟩
  | rsChanged hi hp hr h => exact .inr (.inr ⟨hr, h⟩)
  | early ht h => exact .inr (.inl ⟨ht, h⟩)

section
variable (hok : timing = true → ok)
include hok

/-- A high nibble is then pending, or came too early. -/
theorem Latches.pending (h : Latches timing r n p q) (hp : p.fourHi) (hf : p.fault = none) :
    q.Unless ok (Peer.Pending r n) := by
  obtain ⟨e, rfl⟩ | ⟨ht, hq⟩ := h.of_fourHi hp
  · exact .inl ⟨hf, hp.1, rfl, rfl, rfl⟩
  · exact .inr ⟨hq, hok ht⟩

/-- A function set gives the peer its mode, its lines and its font, and a high nibble comes next (R192). -/
theorem Executes.functionSet {m two tall : Bool} {x : BitVec 2}
    (h : Executes timing (.lcdFunctionSet m two tall x) p q) (hf : p.fault = none) :
    q.Unless ok fun q => q.ifmode = (if m then .eight else .four) ∧ q.phase = .hi ∧ q.lines2 = two ∧
      q.font10 = tall := by
  refine h.unless (fun c => rfl) hf hok fun u w hu _ hw => ?_
  cases (functionSetResult m two tall x u hu).symm.trans hw
  exact .inl ⟨hu.fault, rfl, rfl, rfl, rfl⟩

/-- After any byte in 4-bit mode a high nibble comes next, where the peer may set its fault. -/
theorem Executes.phase_hi (hall : ok) (h : Executes timing (decodeTransfer r b) p q) (hf : p.fault = none)
    (hp : p.phase = .hi) : q.Unless ok fun q => q.phase = .hi := by
  by_cases hset : ∃ m two tall x, decodeTransfer r b = .lcdFunctionSet m two tall x
  · obtain ⟨m, two, tall, x, hset⟩ := hset
    rw [hset] at h
    exact .of_imp (fun _ => hall) fun hq => ((h.functionSet hok hf).resolve_right fun hbad => hbad.1 hq).2.2.1
  · refine h.unless (fun c => decodeTransfer_expand c r b) hf hok fun u w _ hu hw => .of_imp (fun _ => hall) fun hq => ?_
    obtain ⟨hkeeps, -⟩ := exec_keeps (decodeTransfer_expand u.cfg r b) hw hq
    obtain ⟨-, hphase, -⟩ := hkeeps.interface fun m two tall x heq => hset ⟨m, two, tall, x, heq⟩
    rw [hphase, hu, hp]

/-! ### One byte in 4-bit mode -/

/-- The two latches of a byte bring a peer in 4-bit mode to what the byte's instruction makes of it; `P` is of the fields
that neither latch writes. -/
theorem Brings.byte (hi : decodeTransfer r b = i)
    (hP : ∀ p e m r ph, P p → P { p with lastE := e, hiNib := m, hiRS := r, phase := ph })
    (hQ : ∀ u w : State, u.PeerFree → u.peer.fourHi → P u.peer → exec i u = .next w →
      w.peer.fault = none ∧ w.peer.fourHi ∧ Q w.peer)
    (hl : Brings timing ok (fun p => p.fourHi ∧ Q p) l R) :
    Brings timing ok (fun p => p.fourHi ∧ P p) (byteLatches r b ++ l) R := by
  refine Brings.cons (Q := fun p => p.Pending r (hiNibble b) ∧ P p) (fun p q hp hf hx => ?_)
    (Brings.cons (fun p q hp hf hx => ?_) hl)
  · obtain ⟨e, rfl⟩ | ⟨ht, hq⟩ := hx.of_fourHi hp.1
    · exact .inl ⟨hf, ⟨hp.1.1, rfl, rfl, rfl⟩, hP _ _ _ _ _ hp.2⟩
    · exact .inr ⟨hq, hok ht⟩
  · obtain ⟨hpend, hp⟩ := hp
    obtain ⟨e, hexec⟩ | ⟨ht, hq⟩ | ⟨hr, -⟩ := hx.of_pending hpend
    · rw [hiNibble_append_loNibble] at hexec
      refine hexec.unless (fun c => decodeTransfer_expand c r b) hf hok fun u w hu hup hw => ?_
      rw [hi] at hw
      exact .inl (hQ u w hu (hup ▸ ⟨hpend.mode, rfl⟩) (hup ▸ hP p e p.hiNib p.hiRS .hi hp) hw)
    · exact .inr ⟨hq, hok ht⟩
    · exact absurd rfl hr

end

end Sys2Proof.Machine
end

section
/-! SUPPORT. INIT's twelve latches (41_initialize.md R121) on a peer in any interface state (45_reference_peer.md R198):
four bootstrap nibbles bring it to 4-bit mode with a high nibble to come, four bytes to `InitDone`. -/

namespace Sys2Proof.Machine

variable {timing : Bool} {ok : Prop} {P Q R : Peer → Prop} {p q : Peer} {l : List (Bool × Nibble)}

/-! ### The bootstrap nibbles -/

/-- The nibble 3 above any nibble is a function set to 8-bit mode. -/
theorem decodeTransfer_boot8 (k : Nibble) : decodeTransfer false ((3 : Nibble) ++ k) =
    .lcdFunctionSet true (k.getLsbD 3) (k.getLsbD 2) (k.extractLsb' 0 2) := by
  revert k
  decide

/-- The nibble 2 above any nibble is a function set to 4-bit mode. -/
theorem decodeTransfer_boot4 (k : Nibble) : decodeTransfer false ((2 : Nibble) ++ k) =
    .lcdFunctionSet false (k.getLsbD 3) (k.getLsbD 2) (k.extractLsb' 0 2) := by
  revert k
  decide

/-- After one bootstrap nibble 3: in 8-bit mode, or in 4-bit mode with a high nibble to come or the nibble pending. -/
def Peer.bootOne (p : Peer) : Prop := p.ifmode = .eight ∨ p.fourHi ∨ p.Pending false 3

/-- After two bootstrap nibbles 3: in 8-bit mode, or in 4-bit mode with the nibble pending. -/
def Peer.bootTwo (p : Peer) : Prop := p.ifmode = .eight ∨ p.Pending false 3

section
variable (hok : timing = true → ok)
include hok

/-- In 8-bit mode the nibble 3 keeps the peer in 8-bit mode. -/
theorem Latches.boot8_of_eight (h : Latches timing false 3 p q) (hp : p.ifmode = .eight) (hf : p.fault = none) :
    q.Unless ok fun q => q.ifmode = .eight := by
  obtain ⟨k, e, hexec⟩ | ⟨ht, hq⟩ := h.of_eight hp
  · rw [decodeTransfer_boot8] at hexec
    exact (hexec.functionSet hok hf).mono And.left
  · exact .inr ⟨hq, hok ht⟩

/-- A second nibble 3 brings the peer from 4-bit to 8-bit mode. -/
theorem Latches.boot8_of_pending (h : Latches timing false 3 p q) (hp : p.Pending false 3) (hf : p.fault = none) :
    q.Unless ok fun q => q.ifmode = .eight := by
  obtain ⟨e, hexec⟩ | ⟨ht, hq⟩ | ⟨hr, -⟩ := h.of_pending hp
  · rw [decodeTransfer_boot8] at hexec
    exact (hexec.functionSet hok hf).mono And.left
  · exact .inr ⟨hq, hok ht⟩
  · exact absurd rfl hr

/-- The four bootstrap nibbles bring a peer to 4-bit mode with a high nibble to come, from 8-bit mode without a fault, and
from 4-bit mode unless it sets its fault. -/
theorem Brings.boot (hl : Brings timing ok Peer.fourHi l R) :
    Brings timing ok (fun p => p.ifmode = .four → ok)
      ((false, 3) :: (false, 3) :: (false, 3) :: (false, 2) :: l) R := by
  refine .cons (Q := Peer.bootOne) (fun p q hp hf hx => ?_) <| .cons (Q := Peer.bootTwo) (fun p q hp hf hx => ?_) <|
    .cons (Q := fun p => p.ifmode = .eight) (fun p q hp hf hx => ?_) <| .cons (fun p q hp hf hx => ?_) hl
  · cases hmode : p.ifmode with
    | eight => exact (hx.boot8_of_eight hok hmode hf).mono .inl
    | four =>
      have hall := hp hmode
      cases hphase : p.phase with
      | hi => exact (hx.pending hok ⟨hmode, hphase⟩ hf).mono fun h => .inr (.inr h)
      | lo =>
        obtain ⟨e, hexec⟩ | ⟨-, hq⟩ | ⟨-, hq⟩ := hx.of_pending ⟨hmode, hphase, rfl, rfl⟩
        · refine (hexec.phase_hi hok hall hf rfl).mono fun hphase => ?_
          cases hmode : q.ifmode with
          | eight => exact .inl hmode
          | four => exact .inr (.inl ⟨hmode, hphase⟩)
        · exact .inr ⟨hq, hall⟩
        · exact .inr ⟨hq, hall⟩
  · obtain hp | hp | hp := hp
    · exact (hx.boot8_of_eight hok hp hf).mono .inl
    · exact (hx.pending hok hp hf).mono .inr
    · exact (hx.boot8_of_pending hok hp hf).mono .inl
  · obtain hp | hp := hp
    · exact hx.boot8_of_eight hok hp hf
    · exact hx.boot8_of_pending hok hp hf
  · obtain ⟨k, e, hexec⟩ | ⟨ht, hq⟩ := hx.of_eight hp
    · rw [decodeTransfer_boot4] at hexec
      exact (hexec.functionSet hok hf).mono fun ⟨hmode, hphase, _⟩ => ⟨hmode, hphase⟩
    · exact .inr ⟨hq, hok ht⟩

end

/-! ### The command bytes -/

/-- What function set 0x28 leaves: two lines and the small font. -/
def Peer.linesSet (p : Peer) : Prop := p.lines2 = true ∧ p.font10 = false

/-- What entry mode set 0x06 adds: increment, and no display shift. -/
def Peer.entrySet (p : Peer) : Prop := p.linesSet ∧ p.id = true ∧ p.sh = false

/-- What display control 0x0C adds: the display on, without cursor and blinking. -/
def Peer.displaySet (p : Peer) : Prop := p.entrySet ∧ p.dispOn = true ∧ p.cursorOn = false ∧ p.blinkOn = false

/-- What clear display adds: the cursor at 0 and blank memory. -/
def Peer.cleared (p : Peer) : Prop := p.displaySet ∧ p.ac = 0 ∧ ∀ a, Memory.read p.ddram a = 0x20

theorem Peer.initDone_of_cleared (hf : p.fault = none) (hi : p.fourHi) (h : p.cleared) : p.initDone := by
  obtain ⟨hmode, hphase⟩ := hi
  obtain ⟨⟨⟨⟨hlines, hfont⟩, hid, hsh⟩, hdisp, hcursor, hblink⟩, hac, hmem⟩ := h
  exact ⟨hmode, hphase, hlines, hfont, hid, hsh, hdisp, hcursor, hblink, hac, hmem, hf⟩

/-- INIT's four bytes bring a peer from 4-bit mode to `InitDone`. -/
theorem brings_initDone (hok : timing = true → ok) :
    Brings timing ok Peer.fourHi (byteLatches false 0x28 ++ (byteLatches false 0x06 ++ (byteLatches false 0x0C ++
      (byteLatches false 0x01 ++ [])))) Peer.initDone := by
  refine Brings.of_imp (Q := fun p => p.fourHi ∧ True) (fun p hp => ⟨hp, trivial⟩) ?_
  refine .byte hok (i := .lcdFunctionSet false true false 0) (Q := Peer.linesSet) rfl (fun _ _ _ _ _ h => h)
    (fun u w hu _ _ hw => ?_) ?_
  · cases (functionSetResult false true false 0 u hu).symm.trans hw
    exact ⟨hu.fault, ⟨rfl, rfl⟩, rfl, rfl⟩
  refine .byte hok (i := .lcdEntryModeSet true false) (Q := Peer.entrySet) rfl (fun _ _ _ _ _ h => h)
    (fun u w hu hi hp hw => ?_) ?_
  · cases (entryModeAndDisplayControl.1 true false u hu).symm.trans hw
    exact ⟨hu.fault, hi, hp, rfl, rfl⟩
  refine .byte hok (i := .lcdDisplayControl true false false) (Q := Peer.displaySet) rfl (fun _ _ _ _ _ h => h)
    (fun u w hu hi hp hw => ?_) ?_
  · cases (entryModeAndDisplayControl.2 true false false u hu).symm.trans hw
    exact ⟨hu.fault, hi, hp, rfl, rfl, rfl⟩
  refine .byte hok (i := .lcdClearDisplay) (Q := Peer.cleared) rfl (fun _ _ _ _ _ h => h)
    (fun u w hu hi hp hw => ?_) (.nil fun p e hf hp => Peer.initDone_of_cleared hf hp.1 hp.2)
  · obtain ⟨m, hm, hclear⟩ := clearDisplayResult u hu
    obtain ⟨⟨hlines, -, hsh⟩, hdisplay⟩ := hp
    cases hclear.symm.trans hw
    exact ⟨hu.fault, hi, ⟨⟨hlines, rfl, hsh⟩, hdisplay⟩, rfl, hm⟩

/-- Settles O22: the run of INIT's plan is its twelve latches, and a fault is allowed where the timing check is on or the
peer began in 4-bit mode. -/
theorem initBringsPeerToInitDone : Obligations.InitBringsPeerToInitDone := by
  unfold Obligations.InitBringsPeerToInitDone
  intro s hq hp he hl hf
  obtain ⟨t, ht, -⟩ := run_plan hp hq
  have hall := run_plan_latchesAll hp hq (fun _ => hl.trans he.symm) ht
  rw [he, expand_latched (i := .init) rfl] at hall
  have hok : s.cfg.peerTiming = true → s.cfg.peerTiming = true ∨ s.peer.ifmode = .four := .inl
  have hdone := (brings_initDone hok).boot hok s.peer t.peer (.inl ⟨hf, .inr⟩) hall
  refine ⟨t, ht, fun hft => ?_, fun hmode htiming => ?_⟩
  · exact (hdone.resolve_right fun hbad => hbad.1 hft).2
  · refine (hdone.resolve_right fun hbad => ?_).2
    obtain hon | hfour := hbad.2
    · rw [htiming] at hon; cases hon
    · rw [hmode] at hfour; cases hfour

end Sys2Proof.Machine
end

section
/-! SUPPORT. What stops the machine (60_exceptions.md R220, 20_memory.md R51). -/

namespace Sys2Proof.Machine

/-- A step answers a next state exactly where the host asks for no access the window does not have (R51). -/
theorem step_answers_iff (s : State) : (∃ t, step s = .next t) ↔ s.asksBadAccess = false := by
  obtain ⟨t, ht, -, hgood⟩ | ⟨hbad, o, b, href⟩ := step_total s
  · exact iff_of_true ⟨t, ht⟩ hgood
  · refine iff_of_false (fun ⟨t, ht⟩ => ?_) (by simp [hbad])
    cases href.symm.trans ht

/-- No instruction faults or is refused, in any state (R220). -/
theorem exec_answers (i : Instr) (s : State) : ∃ t, exec i s = .next t := by
  cases he : expand s.cfg i with
  | some p => exact ⟨_, exec_request he⟩
  | none =>
    obtain ⟨t, ht, -⟩ := exec_transfer_step he
    exact ⟨t, ht⟩

/-- Settles O36: a step is a next state or R51's refusal, and an instruction is a request or a transfer. -/
theorem nothingStopsTheMachine : Obligations.NothingStopsTheMachine := by
  unfold Obligations.NothingStopsTheMachine
  exact ⟨step_answers_iff, exec_answers⟩

end Sys2Proof.Machine
end

section
/-! SUPPORT. The reset event as the peer sees it (70_reset_and_hazards.md R240, R241): what the step runs, case by case of
the latch on the rising edge. -/

namespace Sys2Proof.Machine

variable {s u : State} {rest : List Turn} {oi : Option Instr}

/-- The block's items at reset read as a STATUS of 0 (R29, R34). -/
theorem ResetStepped.status {t : State} (h : ResetStepped s t) : t.status = 0 := by
  rw [State.status, h.busy, h.mode, h.cv, h.cause]
  rfl

/-- The LCD's clock does not stop at a reset (log entry 6). -/
theorem ResetStepped.peerTime {t : State} (h : ResetStepped s t) : t.peerTime = s.peerTime := by
  rw [State.peerTime, h.epoch, h.now, Nat.add_zero]

/-- What DATA is at the reset's edge: its old level or its reset level (R241 (a)). -/
def State.resetData (s : State) : Nibble := if freeBit s.draws 2 then s.data else 0

/-- What RS is at the reset's edge: its old level or its reset level (R241 (a)). -/
def State.resetRs (s : State) : Bool := if freeBit s.draws 3 then s.rs else false

theorem State.resetData_old_or_reset (s : State) : s.resetData = s.data ∨ s.resetData = 0x0 :=
  ite_eq_or_eq _ _ _

theorem State.resetRs_old_or_reset (s : State) : s.resetRs = s.rs ∨ s.resetRs = false :=
  ite_eq_or_eq _ _ _

/-- The block at its reset values, the reset's turn and its draw spent, before the peer sees anything of it. -/
def State.resetStart (s : State) (rest : List Turn) : State :=
  (s.setSchedule rest).resetBlock.setDraws (s.draws + 1)

/-- The same where the peer has seen `E` at 1, before any latch. -/
def State.resetSeen (s : State) (rest : List Turn) : State :=
  (s.resetStart rest).setPeer { s.peer with lastE := true }

/-- A latch at the reset's edge can change the peer and spend a draw, and the block is at its reset values all the same. -/
theorem resetBlock_sameBlock (s : State) (k : Nat) (p : Peer) :
    SameBlock s.resetBlock ((s.resetBlock.setDraws k).setPeer p) := by
  constructor <;> rfl

/-- A reset's step ends with what the peer makes of the edge, or runs the byte that this completes (R240, R241). -/
theorem step_reset_sees (hq : s.schedule = .reset :: rest)
    (hsees : (s.resetStart rest).peerSees true s.resetData s.resetRs = (u, oi)) :
    step s = oi.elim (.next u.drift) fun i => exec i u := by
  have hmove : s.move = (s.setSchedule rest).resetMove := by
    unfold State.move
    rw [hq, ← State.popTurn_eq hq]
  rw [step, hmove]
  change runMove (match (s.resetStart rest).peerSees true s.resetData s.resetRs with
    | (s', none) => .ends s'.drift
    | (s', some i) => .run i s') = _
  rw [hsees]
  cases oi <;> rfl

/-- A peer without a fault that does not latch on the reset's edge only sees the level (R182). -/
theorem step_reset_unlatched (hq : s.schedule = .reset :: rest) (hf : s.peer.fault = none)
    (he : latchesOn s.cfg.latchEdge s.peer.lastE true = false) :
    ∃ t, step s = .next t ∧ t.peer = { s.peer with lastE := true } := by
  refine ⟨_, step_reset_sees hq (State.peerSees_quiet (s := s.resetStart rest) he _ _), ?_⟩
  rw [State.drift_of_no_fault]
  exacts [rfl, hf]

/-- A reset whose edge the peer latches on ends with that latch, or runs the byte that it completes (R182). -/
theorem step_reset_latch (hq : s.schedule = .reset :: rest)
    (he : latchesOn s.cfg.latchEdge s.peer.lastE true = true)
    (hlatch : (s.resetSeen rest).latch s.resetData s.resetRs = (u, oi)) :
    step s = oi.elim (.next u.drift) fun i => exec i u :=
  step_reset_sees hq ((State.peerSees_latch (s := s.resetStart rest) he _ _).trans hlatch)

/-- A latch at the reset's edge that sets a fault leaves it set (R180). -/
theorem step_reset_raises {f : PeerFault} (hq : s.schedule = .reset :: rest) (hf : s.peer.fault = none)
    (he : latchesOn s.cfg.latchEdge s.peer.lastE true = true)
    (hlatch : (s.resetSeen rest).latch s.resetData s.resetRs = ((s.resetSeen rest).raisePeer f, none)) :
    ∃ t, step s = .next t ∧ t.peer.fault = some f :=
  ⟨_, step_reset_latch hq he hlatch, (State.drift_fault _).trans (State.raisePeer_fault (u := s.resetSeen rest) hf f)⟩

/-- With the timing check on, a reset's edge within 15000 µs of power-on sets OVERRUN (R197). -/
theorem step_reset_early (hq : s.schedule = .reset :: rest) (hf : s.peer.fault = none)
    (he : latchesOn s.cfg.latchEdge s.peer.lastE true = true) (ht : s.cfg.peerTiming = true)
    (hearly : s.peerTime < latchEarliest) : ∃ t, step s = .next t ∧ t.peer.fault = some .overrun :=
  step_reset_raises hq hf he (State.latch_early (s := s.resetSeen rest) ht hearly _ _)

section

variable (hq : s.schedule = .reset :: rest) (he : latchesOn s.cfg.latchEdge s.peer.lastE true = true)
  (hc : s.cfg.peerTiming = false ∨ latchEarliest ≤ s.peerTime)
include hq he hc

/-- The reset's edge runs, in 8-bit mode, the byte of the nibble and a free low nibble on the reset state (R183). -/
theorem step_reset_eight (hi : s.peer.ifmode = .eight) :
    ∃ u, step s = exec (decodeTransfer s.resetRs (s.resetData ++ freeNibble (s.draws + 1))) u ∧
      SameBlock (s.setSchedule rest).resetBlock u ∧ u.peer = { s.peer with lastE := true } :=
  ⟨_, step_reset_latch hq he (State.latch_eight (s := s.resetSeen rest) hc hi _ _), resetBlock_sameBlock _ _ _, rfl⟩

/-- The reset's edge gives a peer in phase HI a high nibble and its RS, and changes nothing else (R184). -/
theorem step_reset_hi (hf : s.peer.fault = none) (hi : s.peer.ifmode = .four) (hp : s.peer.phase = .hi) :
    ∃ t, step s = .next t ∧ SameBlock (s.setSchedule rest).resetBlock t ∧
      t.peer = { s.peer with lastE := true, hiNib := s.resetData, hiRS := s.resetRs, phase := .lo } := by
  refine ⟨_, step_reset_latch hq he (State.latch_hi (s := s.resetSeen rest) hc hi hp _ _), ?_⟩
  rw [State.drift_of_no_fault]
  exacts [⟨resetBlock_sameBlock _ _ _, rfl⟩, hf]

/-- The reset's edge latches a low nibble under another RS than its high nibble's: a fault (R185). -/
theorem step_reset_rsChanged (hf : s.peer.fault = none) (hi : s.peer.ifmode = .four) (hp : s.peer.phase = .lo)
    (hr : s.resetRs ≠ s.peer.hiRS) : ∃ t, step s = .next t ∧ t.peer.fault = some .rsChanged :=
  step_reset_raises hq hf he (State.latch_rsChanged (s := s.resetSeen rest) hc hi hp _ (Ne.symm hr))

/-- The reset's edge latches a low nibble under its high nibble's RS, and runs the byte of the two on the reset state
(R184). -/
theorem step_reset_lo (hi : s.peer.ifmode = .four) (hp : s.peer.phase = .lo) (hr : s.resetRs = s.peer.hiRS) :
    ∃ u, step s = exec (decodeTransfer s.resetRs (s.peer.hiNib ++ s.resetData)) u ∧
      SameBlock (s.setSchedule rest).resetBlock u ∧ u.peer = { s.peer with lastE := true, phase := .hi } :=
  ⟨_, step_reset_latch hq he (State.latch_lo (s := s.resetSeen rest) hc hi hp _ hr.symm), resetBlock_sameBlock _ _ _, rfl⟩

end

end Sys2Proof.Machine
end

section
/-! SUPPORT. The statements on reset (70_reset_and_hazards.md section 1), settled. -/

namespace Sys2Proof.Machine

/-- Settles O41: the block's items are the reset's, and a peer that has seen `E` at 1 sees no edge. -/
theorem resetEvent : Obligations.ResetEvent := by
  unfold Obligations.ResetEvent
  intro s rest hq
  obtain ⟨t, ht, h⟩ := step_reset hq
  rw [State.popTurn_eq hq] at h
  refine ⟨t, ht, h.data, h.rs, h.e, h.mode, h.busy, h.plan, h.cv, h.cause, h.now, h.trace, h.status, h.initRun, h.schedule,
    h.rdata, h.cfg, h.peerTime, fun hf hl => ?_⟩
  have he : latchesOn s.cfg.latchEdge s.peer.lastE true = false := by
    rw [hl]
    cases s.cfg.latchEdge <;> rfl
  obtain ⟨t', ht', hpeer⟩ := step_reset_unlatched hq hf he
  cases ht.symm.trans ht'
  rw [hpeer, ← hl]

/-- Settles O43, by the edge the peer latches on, the timing check, the mode and, for a low nibble, whether RS is the high
nibble's. -/
theorem resetIsARisingEdge : Obligations.ResetIsARisingEdge := by
  unfold Obligations.ResetIsARisingEdge
  intro s rest hq hl hf
  have hrises (hedge : s.cfg.latchEdge = .rising) : latchesOn s.cfg.latchEdge s.peer.lastE true = true := by
    rw [hedge, hl]
    rfl
  refine ⟨fun hedge => step_reset_unlatched hq hf (by rw [hedge, hl]; rfl),
    fun hedge => step_reset_early hq hf (hrises hedge), fun hedge hc => ?_⟩
  have he := hrises hedge
  exact ⟨s.resetData, s.resetRs, s.resetData_old_or_reset, s.resetRs_old_or_reset, step_reset_eight hq he hc,
    step_reset_hi hq he hc hf, step_reset_rsChanged hq he hc hf, step_reset_lo hq he hc⟩

end Sys2Proof.Machine
end
